-- ==== Sys2Proof/Word.lean ====
section
/-! DEFINITION. The word types of SBPF and their plainest arithmetic (00_scope.md rules R10, R11). -/

namespace Sys2Proof

/-- R10: a byte is an unsigned 8-bit value. -/
abbrev Byte := BitVec 8

/-- R60, R63: a descriptor word has 32 bits, bit 0 the least significant. -/
abbrev Word := BitVec 32

end Sys2Proof
end

