-- ==== Sys2Proof/Config.lean ====
section
/-! DEFINITION. What an implementation of SBPF fixes: its parameters (00_scope.md rule R6), its constants
(rule R9), and the free values for what the spec leaves open. -/

namespace Sys2Proof

/-- R6, R162: what channel R does with a truncated frame. -/
inductive TruncPolicy where
  | passPartial
  | error
  deriving DecidableEq, Repr

/-- R6: the implementation parameters. A model takes them as arguments: here a field of State holds them,
and no step changes them. -/
structure Params where
  maxPayload  : Nat
  maxFrame    : Nat
  cursorCap   : Nat
  bufMax      : Nat
  /-- `none` is the unbounded timeout (D16). -/
  txTimeout   : Option Nat
  truncPolicy : TruncPolicy
  deriving DecidableEq, Repr

/-- R6, D16: TX_TIMEOUT is OPEN. A free value (log entry 3): nothing in Lean can say which it is. -/
opaque Config.txTimeout : Option Nat

/-- R250: which of the values BOARD_ID held during a PARSE the PARSE compared. A free value of channel C,
drawn fresh at each such step (log entry 6); the draw is taken modulo the number of values. -/
opaque Config.boardIdDrawC : Nat → Nat

/-- R250: the same draw for the RX_DELIM steps of channel R (log entry 6). -/
opaque Config.boardIdDrawR : Nat → Nat

/-- R6: the spec's default parameters; TX_TIMEOUT has no default. -/
def Config.default : Params where
  maxPayload  := 20
  maxFrame    := 26
  cursorCap   := 26
  bufMax      := 512
  txTimeout   := Config.txTimeout
  truncPolicy := .passPartial

/-- R9: the delimiter. -/
abbrev Config.DELIM : Byte := 0x00#8

/-- R9: the code byte of a full block. -/
abbrev Config.CODE_FULL : Byte := 0xFF#8

/-- R9: HDR_SIZE + LEN_SIZE + CHK_SIZE. -/
abbrev Config.OVERHEAD : Nat := 4

/-- R9: literal bytes of a full block. -/
abbrev Config.RUN_MAX : Nat := 254

end Sys2Proof
end

