-- ==== Sys2Proof/Syntax.lean ====
section
/-! DEFINITION. The operation set SBPF-1: one constructor per row of the opcode table
(30_encoding.md rules R61, R70, R71), and the items an encoding is read from. -/

namespace Sys2Proof

/-- R60: the operand fields of a channel-C request. An operation that does not use a field ignores it
(R61); the field is kept here so that no bit of a request is lost. `blen` is the number of bytes of
`buf` (R60). -/
structure Operands where
  cmd : BitVec 8
  id  : BitVec 13
  len : BitVec 8
  buf : List Byte
  deriving DecidableEq, Repr

/-- The twelve rows of the opcode table. -/
inductive Instr where
  /-- R100. -/
  | encode (o : Operands)
  /-- R101. -/
  | decode (o : Operands)
  /-- R130. -/
  | chksum (o : Operands)
  /-- R131. -/
  | chkverify (o : Operands)
  /-- R140. -/
  | build (o : Operands)
  /-- R141. -/
  | parse (o : Operands)
  /-- R180. -/
  | send (o : Operands)
  /-- R161: the byte 0x00 on `rx`. -/
  | rxDelim
  /-- R160: a byte other than 0x00 on `rx`. -/
  | rxData (b : Byte)
  /-- R112: the byte 0x00 in code position. -/
  | codeTerm
  /-- R110: a byte 0x01 to 0xFE in code position. -/
  | codeRun (c : Byte)
  /-- R111: the byte 0xFF in code position. -/
  | codeFull
  deriving DecidableEq, Repr

/-- R60, R72: one item of the port `c_req`: two descriptor words and the operand bytes. -/
structure Request where
  req0 : Word
  req1 : Word
  buf  : List Byte
  deriving DecidableEq, Repr

/-- What an instruction is read from, with the position it is read in: a request on `c_req` (R60), a
byte on `rx` (R70) or a byte in code position of an encoded sequence (R71). -/
inductive Item where
  | request (r : Request)
  | stream (b : Byte)
  | code (c : Byte)
  deriving DecidableEq, Repr

end Sys2Proof
end

