-- ==== Sys2Proof/Machine/State.lean ====
section
/-! DEFINITION. The state of SBPF: everything 10_state.md gives the machine (rules R22 to R30), its
configuration input and parameters, the environment's inputs as data, and the few fields of the model's own
that INVENTORY.md lists. -/

namespace Sys2Proof.Machine

/-- R64: the status codes, by name. -/
inductive Status where
  | ok
  | malformed
  | decodeError
  | rxOverflow
  | checksumError
  | unrecognizedId
  | txOverflow
  | sizeError
  | queueSendError
  | illegalOp
  | operandError
  deriving DecidableEq, Repr

/-- R76, R203: the items an event port carries. -/
inductive Event where
  | malformed
  | decodeError
  | rxOverflow
  | checksumError
  | unrecognizedId
  | txOverflow
  | queueSendError
  deriving DecidableEq, Repr

/-- R203: the counter, outside SBPF, that an event owes one increment of. -/
inductive Counter where
  | malformedMessage
  | decodeError
  | rxBufferOverflow
  | checksumError
  | unrecognizedId
  | txBufferOverflow
  | queueSendError
  deriving DecidableEq, Repr

/-- R22: the one state of the receive state machine. -/
inductive RxState where
  | accumulating
  deriving DecidableEq, Repr

/-- R26: the phase of channel C. -/
inductive CPhase where
  | idle
  | txWait
  deriving DecidableEq, Repr

/-- R25, R76: an item of the port `msg`. -/
structure Msg where
  mid     : BitVec 13
  mcmd    : BitVec 5
  mlen    : BitVec 8
  payload : List Byte
  deriving DecidableEq, Repr

/-- R26, R76: an item of the port `tx`. -/
structure Frame where
  flen  : BitVec 16
  bytes : List Byte
  deriving DecidableEq, Repr

/-- R63: an item of the port `c_rsp`, bit for bit. -/
structure Response where
  rsp0 : Word
  rsp1 : Word
  rbuf : List Byte
  deriving DecidableEq, Repr

/-- R63: the fields of a response, before they are packed into its words. A field that a rule does not
name is 0, false or empty. -/
structure RspFields where
  status : Status
  term   : Bool := false
  trunc  : Bool := false
  empty  : Bool := false
  rcmd   : BitVec 8 := 0
  rid    : BitVec 13 := 0
  val    : BitVec 8 := 0
  rbuf   : List Byte := []
  deriving DecidableEq, Repr

/-- R23, R40: the bytes of CURSOR_BUF by index, in canonical form: indices strictly rising and no entry
that holds what an unlisted index reads as (Machine/Ops.lean). -/
abbrev Memory := List Host.Cell

/-- R103: the variables of cobs_decode. `rest` is the input from index `i` on. -/
structure DecWork where
  rest  : List Byte
  out   : List Byte
  prev  : Byte
  term  : Bool
  trunc : Bool
  deriving DecidableEq, Repr

/-- R103: cobs_decode's variables before its loop, over the input `e`. -/
def DecWork.start (e : List Byte) : DecWork :=
  { rest := e, out := [], prev := 0xFF#8, term := false, trunc := false }

/-- Who moves next (log entry 7): one of the two agents (R20), a hand-off by the environment (R29, R220),
reset (R240), or one code byte of the codec's working buffer (log entry 9). -/
inductive Move where
  /-- Channel C: take a request when it can, or one step of SEND's wait in which the queue does not accept
  (R183: tick or timeout). -/
  | chanC
  /-- Channel R: take a byte when it can. -/
  | chanR
  /-- The transmission queue accepts the frame `tx` offers (R183: accept). -/
  | txAccept
  /-- The requester takes the response `c_rsp` offers. -/
  | rspTake
  /-- The consumer accepts the message `msg` offers (R166). -/
  | msgTake
  /-- `cfg_board_id` becomes `v`; while a step executes it also holds the values `also` (R27, R250). -/
  | cfgBoardId (v : Nat) (also : List Nat)
  /-- `rst` is asserted (R240), in the middle of the channels' operations that `midC` and `midR` name
  (R242, log entry 17). -/
  | rst (midC midR : Bool)
  /-- The next byte in code position of the working buffer. -/
  | codeByte
  deriving DecidableEq, Repr

/-- What the ports have handed over so far, oldest first: the environment's record, which nothing in SBPF
reads (log entry 8). -/
structure PortLog where
  rsp  : List Response
  cEvt : List Event
  tx   : List Frame
  msg  : List Msg
  rEvt : List Event
  deriving DecidableEq, Repr

/-- The state of SBPF. -/
structure State where
  /-- R6: the parameters. -/
  cfg         : Params
  /-- R27: BOARD_ID. -/
  boardId     : Nat
  /-- R250: further values BOARD_ID holds while a step executes; `[]` when it is stable. -/
  boardIdAlso : List Nat
  /-- R22: RX_STATE. -/
  rxState     : RxState
  /-- R23: CURSOR_BUF. -/
  cursorBuf   : Memory
  /-- R24: CURSOR_IDX. -/
  cursorIdx   : Nat
  /-- R25: RX_PEND, the message `msg` offers. -/
  rxPend      : Option Msg
  /-- R26: C_PHASE. -/
  cPhase      : CPhase
  /-- R26: C_TXFRAME, the frame `tx` offers in TX_WAIT. -/
  cTxframe    : Frame
  /-- R26: C_TXTIMER. -/
  cTxtimer    : Nat
  /-- R29, R220: the response `c_rsp` offers. -/
  cRsp        : Option Response
  /-- R103: the codec's working buffer for the code-byte rows (log entry 9). -/
  codec       : DecWork
  /-- R220: requests waiting outside, oldest first. -/
  cReq        : List Request
  /-- R166: bytes waiting outside, oldest first. -/
  rx          : List Byte
  /-- Who moves next (log entry 7). -/
  sched       : List Move
  /-- What the ports have handed over (log entry 8). -/
  log         : PortLog
  /-- Free draws of BOARD_ID channel C has taken (log entry 6). -/
  freeC       : Nat
  /-- Free draws of BOARD_ID channel R has taken (log entry 6). -/
  freeR       : Nat
  deriving DecidableEq, Repr

/-- Why the machine stops. -/
inductive Fault where
  /-- R40: CurRead of an index that is not below CURSOR_CAP. Raised by `curRead`, so by RX_DELIM in a state
  whose CURSOR_IDX is above CURSOR_CAP, which no run from reset reaches. Safe. -/
  | curReadOutOfRange (i : Nat)
  /-- R40: CurWrite of an index that is not below CURSOR_CAP - 1 ("such a step is a fault, never a write").
  Raised by `curWrite`; RX_DATA tests the index first, so no step raises it. Safe. -/
  | curWriteOutOfRange (i : Nat)
  deriving DecidableEq, Repr

/-- Why the model gives a step no meaning. -/
inductive Refusal where
  /-- The instruction has no meaning yet: raised only by an arm of `exec`. Safe. -/
  | notModelled (mnemonic : String)
  /-- R7: "a model refuses any other configuration". Raised by `step` when the parameters or BOARD_ID are
  not admitted. Safe. -/
  | configNotAdmitted
  /-- R60, R72: the item on `c_req` does not hold `blen` operand bytes, so it is no request. Raised by
  `fetch` (log entry 13), before R62's checks (log entry 22). Safe. -/
  | notARequest
  deriving DecidableEq, Repr

/-- Nothing handed over yet. -/
def PortLog.empty : PortLog := { rsp := [], cEvt := [], tx := [], msg := [], rEvt := [] }

/-- R30, R240: the machine right after reset, with the default parameters (R6) and BOARD_ID 1 (log
entry 5). CURSOR_BUF, C_TXFRAME and C_TXTIMER are unspecified there (log entries 1 and 2). -/
def State.reset : State where
  cfg         := Config.default
  boardId     := 1
  boardIdAlso := []
  rxState     := .accumulating
  cursorBuf   := []
  cursorIdx   := 0
  rxPend      := none
  cPhase      := .idle
  cTxframe    := { flen := 0, bytes := [] }
  cTxtimer    := 0
  cRsp        := none
  codec       := DecWork.start []
  cReq        := []
  rx          := []
  sched       := []
  log         := PortLog.empty
  freeC       := 0
  freeR       := 0

end Sys2Proof.Machine
end

