-- ==== Sys2Proof/Machine/Flags.lean ====
section
/-! DEFINITION. Status codes, events and the flag bits of a response (30_encoding.md rules R63, R64, R74,
R76; 60_exceptions.md rule R203). SBPF has no flags register (10_state.md rule R28): the flags are fields of
one response. -/

namespace Sys2Proof.Machine

/-- R64: the number of each status code. -/
def statusCode : Status → BitVec 4
  | .ok             => 0x0#4
  | .malformed      => 0x1#4
  | .decodeError    => 0x2#4
  | .rxOverflow     => 0x3#4
  | .checksumError  => 0x4#4
  | .unrecognizedId => 0x5#4
  | .txOverflow     => 0x6#4
  | .sizeError      => 0x7#4
  | .queueSendError => 0x8#4
  | .illegalOp      => 0x9#4
  | .operandError   => 0xA#4

/-- R76: the status an event item carries the code of. -/
def eventStatus : Event → Status
  | .malformed      => .malformed
  | .decodeError    => .decodeError
  | .rxOverflow     => .rxOverflow
  | .checksumError  => .checksumError
  | .unrecognizedId => .unrecognizedId
  | .txOverflow     => .txOverflow
  | .queueSendError => .queueSendError

/-- R76: the 4-bit item on an event port. -/
def eventCode (e : Event) : BitVec 4 := statusCode (eventStatus e)

/-- R203: the counter an event owes one increment of. -/
def eventCounter : Event → Counter
  | .malformed      => .malformedMessage
  | .decodeError    => .decodeError
  | .rxOverflow     => .rxBufferOverflow
  | .checksumError  => .checksumError
  | .unrecognizedId => .unrecognizedId
  | .txOverflow     => .txBufferOverflow
  | .queueSendError => .queueSendError

/-- R63: RSP0; bits 31:29 and 7 are 0. -/
def packRsp0 (f : RspFields) : Word :=
  (statusCode f.status).setWidth 32 ||| (BitVec.ofBool f.term).setWidth 32 <<< 4
    ||| (BitVec.ofBool f.trunc).setWidth 32 <<< 5 ||| (BitVec.ofBool f.empty).setWidth 32 <<< 6
    ||| f.rcmd.setWidth 32 <<< 8 ||| f.rid.setWidth 32 <<< 16

/-- R63: RSP1; bits 15:8 are 0. -/
def packRsp1 (f : RspFields) : Word :=
  f.val.setWidth 32 ||| (BitVec.ofNat 16 f.rbuf.length).setWidth 32 <<< 16

/-- R63: the item of `c_rsp` that carries the fields `f`. -/
def packRsp (f : RspFields) : Response :=
  { rsp0 := packRsp0 f, rsp1 := packRsp1 f, rbuf := f.rbuf }

/-! The fields of a response, read back (R63). -/

/-- RSP0[3:0]. -/
def rspStatus (r : Response) : BitVec 4 := r.rsp0.extractLsb' 0 4
/-- RSP0[4]. -/
def rspTerm (r : Response) : Bool := r.rsp0.getLsbD 4
/-- RSP0[5]. -/
def rspTrunc (r : Response) : Bool := r.rsp0.getLsbD 5
/-- RSP0[6]. -/
def rspEmpty (r : Response) : Bool := r.rsp0.getLsbD 6
/-- RSP0[15:8]. -/
def rspCmd (r : Response) : BitVec 8 := r.rsp0.extractLsb' 8 8
/-- RSP0[28:16]. -/
def rspId (r : Response) : BitVec 13 := r.rsp0.extractLsb' 16 13
/-- RSP1[7:0]. -/
def rspVal (r : Response) : BitVec 8 := r.rsp1.extractLsb' 0 8
/-- RSP1[31:16]. -/
def rspLen (r : Response) : BitVec 16 := r.rsp1.extractLsb' 16 16

/-- R63, R74: the bits that no response ever sets are 0, and the status code is below 0xB. -/
def rspReservedClear (r : Response) : Bool :=
  r.rsp0.getLsbD 7 = false && r.rsp0.extractLsb' 29 3 = 0#3 && r.rsp1.extractLsb' 8 8 = 0#8
    && (rspStatus r).toNat ≤ 10

end Sys2Proof.Machine
end

