-- ==== Sys2Proof/Machine/Ops.lean ====
section
/-! DEFINITION. The named operations over the state: the cursor buffer (20_memory.md rule R40), responses
and events (00_scope.md rule R12), the configuration (rule R7), the read of BOARD_ID (rules R27, R250), the
hand-offs of the ports (rules R48, R166, R220) and reset (rule R240). SBPF takes no exception (rules R200,
R206): an error is a status or an event, so `respond` and the `emit` operations are the whole of its error
reporting. -/

namespace Sys2Proof.Machine

/-! The cursor buffer. -/

/-- What a byte that nothing has written reads as (log entry 1). -/
def Memory.blank : Byte := 0x00#8

/-- The byte at index `i`. -/
def Memory.read : Memory → Nat → Byte
  | [], _ => Memory.blank
  | (a, v) :: m, i => if a = i then v else Memory.read m i

/-- `m` without the index `i`. -/
def Memory.erase : Memory → Nat → Memory
  | [], _ => []
  | (a, v) :: m, i => if a = i then m else (a, v) :: Memory.erase m i

/-- `m` with the byte `v` listed at index `i`, in its place. -/
def Memory.insert : Memory → Nat → Byte → Memory
  | [], i, v => [(i, v)]
  | (a, w) :: m, i, v =>
    if i < a then (i, v) :: (a, w) :: m
    else if a = i then (i, v) :: m
    else (a, w) :: Memory.insert m i v

/-- `m` with the byte at index `i` set to `v`, in canonical form. -/
def Memory.write (m : Memory) (i : Nat) (v : Byte) : Memory :=
  if v = Memory.blank then Memory.erase m i else Memory.insert m i v

/-- The canonical form: indices strictly rising, no entry that reads as an unlisted index does. -/
def Memory.wf : Memory → Bool
  | [] => true
  | [(_, v)] => v ≠ Memory.blank
  | (a, v) :: (b, w) :: m => v ≠ Memory.blank && a < b && Memory.wf ((b, w) :: m)

/-- R40: CurRead(i). -/
def curRead (s : State) (i : Nat) : Except Fault Byte :=
  if i < s.cfg.cursorCap then .ok (Memory.read s.cursorBuf i) else .error (.curReadOutOfRange i)

/-- R40: CurWrite(i, v). -/
def curWrite (s : State) (i : Nat) (v : Byte) : Except Fault State :=
  if i < s.cfg.cursorCap - 1 then .ok { s with cursorBuf := Memory.write s.cursorBuf i v }
  else .error (.curWriteOutOfRange i)

/-- R161: `[CurRead(0), ..., CurRead(n - 1)]`. -/
def cursorBytes (s : State) : Nat → Except Fault (List Byte)
  | 0 => .ok []
  | n + 1 =>
    match cursorBytes s n with
    | .error f => .error f
    | .ok l =>
      match curRead s n with
      | .error f => .error f
      | .ok b => .ok (l ++ [b])

/-! Responses and events. -/

/-- R12: `respond(status, fields)`. -/
def respond (f : RspFields) (s : State) : State := { s with cRsp := some (packRsp f) }

/-- R12, R202: `emit e` by channel C. -/
def emitC (e : Event) (s : State) : State := { s with log := { s.log with cEvt := s.log.cEvt ++ [e] } }

/-- R12, R202: `emit e` by channel R. -/
def emitR (e : Event) (s : State) : State := { s with log := { s.log with rEvt := s.log.rEvt ++ [e] } }

/-! Configuration. -/

/-- R7: the admitted parameters. -/
def paramsAdmitted (p : Params) : Bool :=
  p.maxPayload ≤ 255
    && p.maxPayload + 6 + (p.maxPayload + 3) / 254 ≤ p.maxFrame
    && 2 ≤ p.cursorCap
    && p.maxFrame ≤ p.bufMax && p.maxPayload + 4 ≤ p.bufMax && p.bufMax ≤ 65000

/-- R7, R27: the admitted configurations; every value the input BOARD_ID holds is at most 2047. -/
def configAdmitted (s : State) : Bool :=
  paramsAdmitted s.cfg && s.boardId ≤ 2047 && s.boardIdAlso.all (fun v => v ≤ 2047)

/-- R250: the value a step compares, of the values BOARD_ID holds during it: its value when it is stable,
else a free draw. -/
def drawBoardId (draw : Nat) (s : State) : Nat :=
  if s.boardIdAlso = [] then s.boardId
  else (s.boardId :: s.boardIdAlso).getD (draw % (s.boardIdAlso.length + 1)) s.boardId

/-- R27, R250: BOARD_ID as a PARSE reads it. -/
def boardIdC (s : State) : Nat := drawBoardId (Config.boardIdDrawC s.freeC) s

/-- R27, R250: BOARD_ID as an RX_DELIM reads it. -/
def boardIdR (s : State) : Nat := drawBoardId (Config.boardIdDrawR s.freeR) s

/-- The state after a PARSE has read BOARD_ID: its next draw is a fresh one (log entry 6). -/
def afterBoardIdC (s : State) : State :=
  if s.boardIdAlso = [] then s else { s with freeC := s.freeC + 1 }

/-- The state after an RX_DELIM has read BOARD_ID (log entry 6). -/
def afterBoardIdR (s : State) : State :=
  if s.boardIdAlso = [] then s else { s with freeR := s.freeR + 1 }

/-! When a channel accepts an input. -/

/-- R252: channel C accepts a request only in IDLE with no response pending. -/
def readyC (s : State) : Bool := s.cPhase = .idle && s.cRsp = none

/-- R166: channel R accepts a byte only with RX_PEND empty. -/
def readyR (s : State) : Bool := s.rxPend = none

/-! Hand-offs by the environment. -/

/-- R220: the response on `c_rsp`, if any, is taken. -/
def takeRsp (s : State) : State :=
  match s.cRsp with
  | some r => { s with cRsp := none, log := { s.log with rsp := s.log.rsp ++ [r] } }
  | none => s

/-- R166, R48: the message on `msg`, if any, is accepted, and RX_PEND becomes empty. -/
def takeMsg (s : State) : State :=
  match s.rxPend with
  | some m => { s with rxPend := none, log := { s.log with msg := s.log.msg ++ [m] } }
  | none => s

/-- R27, R250: `cfg_board_id` changes between steps to `v`, with the further values `also`. -/
def setBoardId (v : Nat) (also : List Nat) (s : State) : State :=
  { s with boardId := v, boardIdAlso := also }

/-- R242: the request and the byte whose operation `rst` cuts off, if any, are gone: each had been accepted
(R166, R252) and nothing else of its operation happens (log entry 17). -/
def abandon (midC midR : Bool) (s : State) : State :=
  { s with
    cReq := if midC && readyC s then s.cReq.tail else s.cReq
    rx   := if midR && readyR s then s.rx.tail else s.rx }

/-- R240, R242: reset. Every state element takes its reset value; a request, a frame, a message and the
cursor bytes in progress are abandoned with no response and no event; the parameters, BOARD_ID and what the
environment holds or has taken are not state of SBPF. The unspecified elements take the value `State.reset`
names (log entry 17). -/
def resetMachine (s : State) : State :=
  { s with
    rxState   := State.reset.rxState
    cursorBuf := State.reset.cursorBuf
    cursorIdx := State.reset.cursorIdx
    rxPend    := State.reset.rxPend
    cPhase    := State.reset.cPhase
    cTxframe  := State.reset.cTxframe
    cTxtimer  := State.reset.cTxtimer
    cRsp      := State.reset.cRsp
    codec     := State.reset.codec }

end Sys2Proof.Machine
end

