-- ==== Sys2Proof/Machine/Operands.lean ====
section
/-! DEFINITION. The operand contract every channel-C operation checks before its own rule (30_encoding.md
rule R62), and the answer to an illegal request (rule R73). -/

namespace Sys2Proof.Machine

/-- R62.2: `blen > BUF_MAX`. -/
def bufTooLong (s : State) (o : Operands) : Bool := s.cfg.bufMax < o.buf.length

/-- R62.3: `blen != len`. -/
def lenMismatch (o : Operands) : Bool := o.buf.length ≠ o.len.toNat

/-- R62: the response OPERAND_ERROR, all other fields zero, and nothing else. -/
def operandError (s : State) : State := respond { status := .operandError } s

/-- R62.1, R73: the response ILLEGAL_OP, all other fields zero, and nothing else. -/
def illegalRequest (s : State) : State := respond { status := .illegalOp } s

/-- R62, R252: an operation that uses `buf` only. A busy channel C accepts nothing and keeps its state
(log entry 12); otherwise check 2 comes before the operation's own rule. -/
def withBuf (o : Operands) (s : State) (rule : State → State) : Host.Outcome State Fault Refusal :=
  if readyC s = false then .next s
  else if bufTooLong s o then .next (operandError s)
  else .next (rule s)

/-- R62, R252: an operation whose `buf` is a payload of `len` bytes (BUILD, SEND): check 2, then check 3,
then the operation's own rule. -/
def withPayload (o : Operands) (s : State) (rule : State → State) : Host.Outcome State Fault Refusal :=
  withBuf o s (fun s => if lenMismatch o then operandError s else rule s)

end Sys2Proof.Machine
end

