-- ==== Sys2Proof/Machine/Codec.lean ====
section
/-! DEFINITION. The frame codec: cobs_encode, cobs_decode, ENCODE, DECODE and the three classes of code byte
(40_frame_codec.md). -/

namespace Sys2Proof.Machine

/-! The encoder (R102). -/

/-- R102: the variables of cobs_encode. `pos` is the index `p` of the pending code byte, `none` for NONE. -/
structure EncWork where
  out  : List Byte
  pos  : Option Nat
  code : Nat
  deriving DecidableEq, Repr

/-- R102: the variables before the loop. -/
def EncWork.start : EncWork := { out := [0x00#8], pos := some 0, code := 1 }

/-- R102: `out[p] <- code`, nothing for NONE. -/
def writeCode (w : EncWork) : List Byte :=
  match w.pos with
  | some p => w.out.set p (BitVec.ofNat 8 w.code)
  | none   => w.out

/-- R102: a non-zero input byte is copied through. -/
def encodeLiteral (b : Byte) (w : EncWork) : EncWork :=
  if b ≠ 0x00#8 then { w with out := w.out ++ [b], code := w.code + 1 } else w

/-- R102: at a zero byte, or when the run is full, the code byte is written and the run restarted, with a
new placeholder unless the input ends exactly at a full block. `last` says that no byte follows. -/
def encodeBreak (b : Byte) (last : Bool) (w : EncWork) : EncWork :=
  if b = 0x00#8 ∨ w.code = 0xFF then
    let out := writeCode w
    if b = 0x00#8 ∨ last = false then { out := out ++ [0x00#8], pos := some out.length, code := 1 }
    else { out := out, pos := none, code := 1 }
  else w

/-- R102: the loop over the input bytes. -/
def encodeLoop : List Byte → EncWork → EncWork
  | [], w => w
  | b :: bs, w => encodeLoop bs (encodeBreak b bs.isEmpty (encodeLiteral b w))

/-- R102: cobs_encode(X). -/
def cobsEncode (x : List Byte) : List Byte := writeCode (encodeLoop x EncWork.start)

/-! The decoder (R103). -/

/-- R112: CODE_TERM stops decoding; no zero is restored. -/
def blockTerm (w : DecWork) : DecWork := { w with term := true }

/-- R103, R113, R115: the block a code byte `c` announces: the zero restored between the previous block
and this one, then `c - 1` literal bytes, or as many as there are. -/
def blockLiterals (c : Byte) (w : DecWork) : DecWork :=
  let zero : List Byte := if w.prev ≠ 0xFF#8 then [0x00#8] else []
  let k := min (c.toNat - 1) w.rest.length
  { rest := w.rest.drop k, out := w.out ++ zero ++ w.rest.take k, prev := c, term := w.term,
    trunc := k < c.toNat - 1 }

/-- R110: CODE_RUN. -/
def blockRun (c : Byte) (w : DecWork) : DecWork := blockLiterals c w

/-- R111: CODE_FULL, 254 literals; no zero is implied after them. -/
def blockFull (w : DecWork) : DecWork := blockLiterals 0xFF#8 w

/-- R71: the block of the code byte `c`, by its class. -/
def decodeBlock (c : Byte) (w : DecWork) : DecWork :=
  if c = 0x00#8 then blockTerm w else if c = 0xFF#8 then blockFull w else blockRun c w

/-- R103: one iteration of the loop; nothing once decoding has stopped or the input is used up. -/
def decodeStep (w : DecWork) : DecWork :=
  if w.term then w
  else
    match w.rest with
    | [] => w
    | c :: tl => decodeBlock c { w with rest := tl }

/-- R103: the loop, at most `n` iterations. -/
def decodeLoop : Nat → DecWork → DecWork
  | 0, w => w
  | n + 1, w => decodeLoop n (decodeStep w)

/-- R103: what cobs_decode returns. -/
structure DecResult where
  out   : List Byte
  term  : Bool
  trunc : Bool
  deriving DecidableEq, Repr

/-- R103: the result in the loop's variables. -/
def decodeResult (w : DecWork) : DecResult := { out := w.out, term := w.term, trunc := w.trunc }

/-- R103: cobs_decode(E); each iteration uses at least one byte, so `len(E)` of them are enough. -/
def cobsDecode (e : List Byte) : DecResult := decodeResult (decodeLoop e.length (DecWork.start e))

/-! The instructions. -/

/-- R100: ENCODE's own rule. -/
def encodeRule (o : Operands) (s : State) : State :=
  respond { status := .ok, rbuf := cobsEncode o.buf } s

/-- R100: ENCODE. -/
def execEncode (o : Operands) (s : State) : Host.Outcome State Fault Refusal :=
  withBuf o s (encodeRule o)

/-- R101: DECODE's own rule. -/
def decodeRule (o : Operands) (s : State) : State :=
  let r := cobsDecode o.buf
  respond { status := .ok, term := r.term, trunc := r.trunc, empty := r.out.length = 0, rbuf := r.out } s

/-- R101: DECODE. -/
def execDecode (o : Operands) (s : State) : Host.Outcome State Fault Refusal :=
  withBuf o s (decodeRule o)

/-- R112: CODE_TERM, on the working buffer (log entry 9). -/
def execCodeTerm (s : State) : Host.Outcome State Fault Refusal :=
  .next { s with codec := blockTerm s.codec }

/-- R112: once decoding has stopped, every later byte is ignored. -/
def unlessStopped (w : DecWork) (block : DecWork → DecWork) : DecWork :=
  if w.term then w else block w

/-- R110: CODE_RUN, on the working buffer (log entry 9). -/
def execCodeRun (c : Byte) (s : State) : Host.Outcome State Fault Refusal :=
  .next { s with codec := unlessStopped s.codec (blockRun c) }

/-- R111: CODE_FULL, on the working buffer (log entry 9). -/
def execCodeFull (s : State) : Host.Outcome State Fault Refusal :=
  .next { s with codec := unlessStopped s.codec blockFull }

end Sys2Proof.Machine
end

