-- ==== Sys2Proof/Machine/Checksum.lean ====
section
/-! DEFINITION. The checksum unit: CHKSUM and CHKVERIFY (41_checksum.md). -/

namespace Sys2Proof.Machine

/-- R132: the exclusive or of every byte, 0x00 for no byte. -/
def chk (l : List Byte) : Byte := l.foldl (fun x b => x ^^^ b) 0x00#8

/-- R130: CHKSUM's own rule. -/
def chksumRule (o : Operands) (s : State) : State := respond { status := .ok, val := chk o.buf } s

/-- R130: CHKSUM. -/
def execChksum (o : Operands) (s : State) : Host.Outcome State Fault Refusal :=
  withBuf o s (chksumRule o)

/-- R131: CHKVERIFY's own rule; the last byte is taken as the checksum of the bytes before it. -/
def chkverifyRule (o : Operands) (s : State) : State :=
  match o.buf.getLast? with
  | none => respond { status := .malformed } s
  | some c =>
    let x := chk o.buf.dropLast
    if x = c then respond { status := .ok, val := x } s
    else respond { status := .checksumError, val := x } s

/-- R131: CHKVERIFY. -/
def execChkverify (o : Operands) (s : State) : Host.Outcome State Fault Refusal :=
  withBuf o s (chkverifyRule o)

end Sys2Proof.Machine
end

