-- ==== Sys2Proof/Machine/Packet.lean ====
section
/-! DEFINITION. The packet builder and parser: BUILD and PARSE (42_packet.md; the layout is 30_encoding.md
rules R65, R66). -/

namespace Sys2Proof.Machine

/-- R66: `H = ((id << 5) | (cmd & 0x1F)) mod 2^16`. -/
def packHeader (id : BitVec 13) (cmd : BitVec 8) : BitVec 16 :=
  (id.setWidth 16 <<< 5) ||| (cmd &&& 0x1F#8).setWidth 16

/-- R142: pkt_build; the header's high byte comes first (R44). -/
def pktBuild (id : BitVec 13) (cmd : BitVec 8) (payload : List Byte) : List Byte :=
  let h := packHeader id cmd
  let p := [h.extractLsb' 8 8, h.extractLsb' 0 8, BitVec.ofNat 8 payload.length] ++ payload
  p ++ [chk p]

/-- R143: the fields of a packet that passes every check. -/
structure Parsed where
  id      : BitVec 11
  cmd     : BitVec 5
  len     : BitVec 8
  payload : List Byte
  deriving DecidableEq, Repr

/-- R143: the verdicts of pkt_parse other than OK. -/
inductive ParseError where
  | malformed
  | checksumError
  | unrecognizedId
  deriving DecidableEq, Repr

/-- R64: the status of a failed parse. -/
def parseStatus : ParseError → Status
  | .malformed      => .malformed
  | .checksumError  => .checksumError
  | .unrecognizedId => .unrecognizedId

/-- R162: the event of a failed parse in the receive path. -/
def parseEvent : ParseError → Event
  | .malformed      => .malformed
  | .checksumError  => .checksumError
  | .unrecognizedId => .unrecognizedId

/-- R66: `hid = (zext_11(P[0]) << 3) | (P[1] >> 5)`. -/
def headerId (b0 b1 : BitVec 8) : BitVec 11 := (b0.setWidth 11 <<< 3) ||| (b1 >>> 5).setWidth 11

/-- R66: `hcmd = P[1] & 0x1F`, 5 bits. -/
def headerCmd (b1 : BitVec 8) : BitVec 5 := (b1 &&& 0x1F#8).setWidth 5

/-- R143, R144: pkt_parse, its checks in the order of the rule. -/
def pktParse (d : List Byte) (bid : Nat) : Except ParseError Parsed :=
  if d.length < 4 then .error .malformed
  else if (d.getD 2 0).toNat ≠ d.length - 4 then .error .malformed
  else if chk (d.take (d.length - 1)) ≠ d.getD (d.length - 1) 0 then .error .checksumError
  else
    let hid := headerId (d.getD 0 0) (d.getD 1 0)
    if hid.toNat ≠ bid then .error .unrecognizedId
    else
      .ok { id := hid, cmd := headerCmd (d.getD 1 0), len := d.getD 2 0,
            payload := (d.drop 3).take (d.getD 2 0).toNat }

/-- R140: BUILD's own rule. -/
def buildRule (o : Operands) (s : State) : State :=
  if s.cfg.maxPayload < o.len.toNat then respond { status := .sizeError } s
  else respond { status := .ok, rbuf := pktBuild o.id o.cmd o.buf } s

/-- R140: BUILD. -/
def execBuild (o : Operands) (s : State) : Host.Outcome State Fault Refusal :=
  withPayload o s (buildRule o)

/-- R141: PARSE's own rule. -/
def parseRule (o : Operands) (s : State) : State :=
  match pktParse o.buf (boardIdC s) with
  | .ok r =>
    respond { status := .ok, rid := r.id.setWidth 13, rcmd := r.cmd.setWidth 8, val := r.len,
              rbuf := r.payload } (afterBoardIdC s)
  | .error e => respond { status := parseStatus e } (afterBoardIdC s)

/-- R141: PARSE. -/
def execParse (o : Operands) (s : State) : Host.Outcome State Fault Refusal :=
  withBuf o s (parseRule o)

end Sys2Proof.Machine
end

