-- ==== Sys2Proof/Machine/RxDeframer.lean ====
section
/-! DEFINITION. The receive deframer: RX_DATA and RX_DELIM (43_rx_deframer.md). -/

namespace Sys2Proof.Machine

/-- R162: the message a parsed packet hands on. -/
def parsedMsg (r : Parsed) : Msg :=
  { mid := r.id.setWidth 13, mcmd := r.cmd, mlen := r.len, payload := r.payload }

/-- R162: rx_frame(F), one completed, non-empty frame. -/
def rxFrame (f : List Byte) (s : State) : State :=
  let d := cobsDecode f
  if d.out.length = 0 then emitR .decodeError s
  else if d.trunc = true ∧ s.cfg.truncPolicy = .error then emitR .decodeError s
  else
    match pktParse d.out (boardIdR s) with
    | .ok r => { afterBoardIdR s with rxPend := some (parsedMsg r) }
    | .error e => emitR (parseEvent e) (afterBoardIdR s)

/-- R161: RX_DELIM. While RX_PEND holds a message the byte is not accepted (R166, log entry 12). -/
def execRxDelim (s : State) : Host.Outcome State Fault Refusal :=
  if readyR s = false then .next s
  else if s.cursorIdx = 0 then .next (emitR .malformed s)
  else
    match cursorBytes s s.cursorIdx with
    | .ok f => .next (rxFrame f { s with cursorIdx := 0 })
    | .error e => .fault e

/-- R160: RX_DATA. While RX_PEND holds a message the byte is not accepted (R166, log entry 12). -/
def execRxData (b : Byte) (s : State) : Host.Outcome State Fault Refusal :=
  if readyR s = false then .next s
  else if s.cursorIdx < s.cfg.cursorCap - 1 then
    match curWrite s s.cursorIdx b with
    | .ok t => .next { t with cursorIdx := s.cursorIdx + 1 }
    | .error e => .fault e
  else .next (emitR .rxOverflow { s with cursorIdx := 0 })

end Sys2Proof.Machine
end

