-- ==== Sys2Proof/Machine/TxSend.lean ====
section
/-! DEFINITION. The transmit framer: SEND and its enqueue wait (44_tx_send.md). -/

namespace Sys2Proof.Machine

/-- R181: `tx_frame(id, cmd, p)`. -/
def txFrame (id : BitVec 13) (cmd : BitVec 8) (payload : List Byte) : List Byte :=
  cobsEncode (pktBuild id cmd payload) ++ [Config.DELIM]

/-- R180: a SEND that fails its payload or frame bound. -/
def txOverflow (s : State) : State := respond { status := .txOverflow } (emitC .txOverflow s)

/-- R180: the frame `t` is offered on `tx`; the wait begins. -/
def offerFrame (t : List Byte) (s : State) : State :=
  { s with cTxframe := { flen := BitVec.ofNat 16 t.length, bytes := t }, cTxtimer := 0, cPhase := .txWait }

/-- R180, R185: SEND's own rule. -/
def sendRule (o : Operands) (s : State) : State :=
  if s.cfg.maxPayload < o.len.toNat then txOverflow s
  else
    let t := txFrame o.id o.cmd o.buf
    if s.cfg.maxFrame < t.length then txOverflow s else offerFrame t s

/-- R180: SEND. -/
def execSend (o : Operands) (s : State) : Host.Outcome State Fault Refusal :=
  withPayload o s (sendRule o)

/-- R183, accept: the transmission queue takes the frame. Nothing is offered in IDLE. -/
def txAccept (s : State) : State :=
  match s.cPhase with
  | .idle => s
  | .txWait =>
    respond { status := .ok }
      { s with cPhase := .idle, log := { s.log with tx := s.log.tx ++ [s.cTxframe] } }

/-- R183: C_TXTIMER has not reached TX_TIMEOUT; it never reaches an unbounded one. -/
def timerRuns (s : State) : Bool :=
  match s.cfg.txTimeout with
  | some n => s.cTxtimer < n
  | none   => true

/-- R183, tick or timeout: one step of the wait in which the queue does not accept. -/
def txHold (s : State) : State :=
  if timerRuns s then { s with cTxtimer := s.cTxtimer + 1 }
  else respond { status := .queueSendError } (emitC .queueSendError { s with cPhase := .idle })

end Sys2Proof.Machine
end

