-- ==== Sys2Proof/Machine/Dispatch.lean ====
section
/-! DEFINITION. One arm per instruction. -/

namespace Sys2Proof.Machine

def exec (i : Instr) (s : State) : Host.Outcome State Fault Refusal :=
  match i with
  | .encode o => Sys2Proof.Machine.execEncode o s
  | .decode o => Sys2Proof.Machine.execDecode o s
  | .chksum o => Sys2Proof.Machine.execChksum o s
  | .chkverify o => Sys2Proof.Machine.execChkverify o s
  | .build o => Sys2Proof.Machine.execBuild o s
  | .parse o => Sys2Proof.Machine.execParse o s
  | .send o => Sys2Proof.Machine.execSend o s
  | .rxDelim => Sys2Proof.Machine.execRxDelim s
  | .rxData b => Sys2Proof.Machine.execRxData b s
  | .codeTerm => Sys2Proof.Machine.execCodeTerm s
  | .codeRun c => Sys2Proof.Machine.execCodeRun c s
  | .codeFull => Sys2Proof.Machine.execCodeFull s

end Sys2Proof.Machine
end

