-- ==== Sys2Proof/WellFormed.lean ====
section
/-! DEFINITION. Which terms of `Instr` stand for an instruction of SBPF: the operand bytes can be counted
by the 16-bit field `blen` (30_encoding.md rule R60), and a byte's class fits its constructor (rules R70,
R71). -/

namespace Sys2Proof

/-- R60: `blen` has 16 bits. -/
def Operands.wf (o : Operands) : Bool := o.buf.length < 2 ^ 16

/-- R60, R70, R71: the constraint of each row of the opcode table. -/
def Instr.wf : Instr → Bool
  | .encode o    => o.wf
  | .decode o    => o.wf
  | .chksum o    => o.wf
  | .chkverify o => o.wf
  | .build o     => o.wf
  | .parse o     => o.wf
  | .send o      => o.wf
  | .rxDelim     => true
  | .rxData b    => b ≠ 0x00#8
  | .codeTerm    => true
  | .codeRun c   => c ≠ 0x00#8 && c ≠ 0xFF#8
  | .codeFull    => true

end Sys2Proof
end

