-- ==== Sys2Proof/Decode.lean ====
section
/-! DEFINITION. Decoding an item into an instruction, total and rejecting by name, and the encoder, both
from the tables of 30_encoding.md (rules R60, R61, R70, R71, R73). -/

namespace Sys2Proof

/-- Why an item is no instruction of the table. -/
inductive DecodeError where
  /-- R62.1, R73: `rsv0`, `rsv1` or `rsv2` is not 0. Channel C answers ILLEGAL_OP. -/
  | reservedField
  /-- R62.1, R73: `op` is 0x0 or 0x8 to 0xF. Channel C answers ILLEGAL_OP. -/
  | reservedOp
  /-- R60, R72: the item does not hold `blen` operand bytes, so it is no request (log entry 13),
  whatever its other fields hold (log entry 22). -/
  | notARequest
  deriving DecidableEq, Repr

/-! The fields of a request (R60). -/

/-- REQ0[3:0]. -/
def reqOp (r : Request) : BitVec 4 := r.req0.extractLsb' 0 4
/-- REQ0[7:4], reserved. -/
def reqRsv0 (r : Request) : BitVec 4 := r.req0.extractLsb' 4 4
/-- REQ0[15:8]. -/
def reqCmd (r : Request) : BitVec 8 := r.req0.extractLsb' 8 8
/-- REQ0[28:16]. -/
def reqId (r : Request) : BitVec 13 := r.req0.extractLsb' 16 13
/-- REQ0[31:29], reserved. -/
def reqRsv1 (r : Request) : BitVec 3 := r.req0.extractLsb' 29 3
/-- REQ1[7:0]. -/
def reqLen (r : Request) : BitVec 8 := r.req1.extractLsb' 0 8
/-- REQ1[15:8], reserved. -/
def reqRsv2 (r : Request) : BitVec 8 := r.req1.extractLsb' 8 8
/-- REQ1[31:16]. -/
def reqBlen (r : Request) : BitVec 16 := r.req1.extractLsb' 16 16

/-- R60: the operands of a request. -/
def reqOperands (r : Request) : Operands :=
  { cmd := reqCmd r, id := reqId r, len := reqLen r, buf := r.buf }

/-- R60, R72: an item of `c_req` is two words and exactly `blen` operand bytes. -/
def requestComplete (r : Request) : Bool := r.buf.length = (reqBlen r).toNat

/-- R61: the operation an `op` value selects, none for a reserved value. -/
def opInstr (op : BitVec 4) (o : Operands) : Option Instr :=
  if op = 0x1#4 then some (.encode o)
  else if op = 0x2#4 then some (.decode o)
  else if op = 0x3#4 then some (.chksum o)
  else if op = 0x4#4 then some (.chkverify o)
  else if op = 0x5#4 then some (.build o)
  else if op = 0x6#4 then some (.parse o)
  else if op = 0x7#4 then some (.send o)
  else none

/-- R60, R61, R62.1, R73: the instruction of a channel-C request. DESIGN CHOICE (log entry 22), safe: that
the item holds its `blen` operand bytes is tested first, so an item that lacks them and also has a reserved
field or `op` is refused as no request and not answered ILLEGAL_OP; the spec says nothing of such an item. -/
def decodeRequest (r : Request) : Except DecodeError Instr :=
  if requestComplete r = false then .error .notARequest
  else if reqRsv0 r ≠ 0 ∨ reqRsv1 r ≠ 0 ∨ reqRsv2 r ≠ 0 then .error .reservedField
  else
    match opInstr (reqOp r) (reqOperands r) with
    | some i => .ok i
    | none   => .error .reservedOp

/-- R70: the class of a byte on `rx`. -/
def decodeStreamByte (b : Byte) : Instr :=
  if b = Config.DELIM then .rxDelim else .rxData b

/-- R71: the class of a byte in code position. -/
def decodeCodeByte (c : Byte) : Instr :=
  if c = Config.DELIM then .codeTerm
  else if c = Config.CODE_FULL then .codeFull
  else .codeRun c

/-- The instruction an item is, or why it is none. -/
def decodeItem : Item → Except DecodeError Instr
  | .request r => decodeRequest r
  | .stream b  => .ok (decodeStreamByte b)
  | .code c    => .ok (decodeCodeByte c)

/-! The encoder. -/

/-- R60, R77: `op | (cmd << 8) | (id << 16)`, the reserved fields 0. -/
def encodeReq0 (op : BitVec 4) (o : Operands) : Word :=
  op.setWidth 32 ||| o.cmd.setWidth 32 <<< 8 ||| o.id.setWidth 32 <<< 16

/-- R60, R77: `len | (blen << 16)`, the reserved field 0. -/
def encodeReq1 (o : Operands) : Word :=
  o.len.setWidth 32 ||| (BitVec.ofNat 16 o.buf.length).setWidth 32 <<< 16

/-- R60, R61: the request that names operation `op`. -/
def encodeRequest (op : BitVec 4) (o : Operands) : Request :=
  { req0 := encodeReq0 op o, req1 := encodeReq1 o, buf := o.buf }

/-- R61, R70, R71: the item an instruction is written as. -/
def encodeItem : Instr → Item
  | .encode o    => .request (encodeRequest 0x1#4 o)
  | .decode o    => .request (encodeRequest 0x2#4 o)
  | .chksum o    => .request (encodeRequest 0x3#4 o)
  | .chkverify o => .request (encodeRequest 0x4#4 o)
  | .build o     => .request (encodeRequest 0x5#4 o)
  | .parse o     => .request (encodeRequest 0x6#4 o)
  | .send o      => .request (encodeRequest 0x7#4 o)
  | .rxDelim     => .stream Config.DELIM
  | .rxData b    => .stream b
  | .codeTerm    => .code Config.DELIM
  | .codeRun c   => .code c
  | .codeFull    => .code Config.CODE_FULL

/-! The request syntax (R77, R78). -/

/-- R77: an omitted `id` or `cmd` is 0. An omitted `len` is `blen` for BUILD and SEND, whose `buf` is a
payload, and 0 for every other operation. -/
def asmOperands (payload : Bool) (cmd : Option (BitVec 8)) (id : Option (BitVec 13)) (len : Option (BitVec 8))
    (buf : List Byte) : Operands :=
  { cmd := cmd.getD 0
    id  := id.getD 0
    len := len.getD (if payload then BitVec.ofNat 8 buf.length else 0)
    buf := buf }

/-- R78: `RXS [b0 ... bk]`, one RX for each byte. -/
def asmRxs (bytes : List Byte) : List Item := bytes.map .stream

/-- R78: `RXF [e0 ... ek]`, the bytes and the delimiter. -/
def asmRxf (bytes : List Byte) : List Item := asmRxs (bytes ++ [Config.DELIM])

/-! The opcode table's numbering of bits. -/

/-- The `n` bytes of `w` from its bit 0 upwards. -/
def bytesOfNat : Nat → Nat → List Byte
  | 0, _     => []
  | n + 1, w => BitVec.ofNat 8 w :: bytesOfNat n (w / 256)

/-- The bits `w` of a table row as a request: REQ0 is bits 31:0, REQ1 bits 63:32, the operand bytes follow;
every bit above `nbits` is 0. -/
def tableRequest (nbits w : Nat) : Request :=
  let v := w % 2 ^ nbits
  let r : Request := { req0 := BitVec.ofNat 32 v, req1 := BitVec.ofNat 32 (v / 2 ^ 32), buf := [] }
  { r with buf := bytesOfNat (reqBlen r).toNat (v / 2 ^ 64) }

/-- The item the bits of a table row are laid out as. A row of one byte does not say in which position the
byte stands: 0xFF, the one byte value that only a code-position row fixes, is read in code position, every
other byte in stream position (log entry 10). -/
def tableItem (nbits w : Nat) : Item :=
  if nbits ≤ 8 then
    let b : Byte := BitVec.ofNat 8 (w % 2 ^ nbits)
    if b = Config.CODE_FULL then .code b else .stream b
  else .request (tableRequest nbits w)

/-- The instruction the decoder reads from a table row's bits. -/
def decodeTableWord (nbits w : Nat) : Option Instr :=
  match decodeItem (tableItem nbits w) with
  | .ok i    => some i
  | .error _ => none

end Sys2Proof
end

