-- ==== Sys2Proof/Machine/Fetch.lean ====
section
/-! DEFINITION. Where the next instruction comes from: the request or byte a move's channel accepts, or the
environment's hand-off that a move is (10_state.md rule R20, 43_rx_deframer.md rule R166, 70 rule R252). -/

namespace Sys2Proof.Machine

/-- What a move comes to: an instruction to run in a state, or an answer without one. -/
inductive Fetched where
  | run (i : Instr) (s : State)
  | answer (o : Host.Outcome State Fault Refusal)

/-- R62.1, R73: a request is accepted and is an instruction, or is answered ILLEGAL_OP. An item that is no
request is refused (log entry 13), before R62's checks (log entry 22). -/
def fetchRequest (r : Request) (s : State) : Fetched :=
  match decodeRequest r with
  | .ok i => .run i s
  | .error .reservedField => .answer (.next (illegalRequest s))
  | .error .reservedOp => .answer (.next (illegalRequest s))
  | .error .notARequest => .answer (.refused .notARequest)

/-- R252, R183: channel C takes the oldest request when it is idle with no response pending; in TX_WAIT it
takes one step of the wait; otherwise it waits. -/
def fetchC (s : State) : Fetched :=
  match s.cPhase with
  | .txWait => .answer (.next (txHold s))
  | .idle =>
    if readyC s = false then .answer (.next s)
    else
      match s.cReq with
      | [] => .answer (.next s)
      | r :: rest => fetchRequest r { s with cReq := rest }

/-- R166, R252: channel R takes the oldest byte when RX_PEND is empty; otherwise it waits. -/
def fetchR (s : State) : Fetched :=
  if readyR s = false then .answer (.next s)
  else
    match s.rx with
    | [] => .answer (.next s)
    | b :: rest => .run (decodeStreamByte b) { s with rx := rest }

/-- R103: the next byte in code position of the working buffer, none once decoding has stopped or the
input is used up (log entry 9). -/
def fetchCode (s : State) : Fetched :=
  if s.codec.term then .answer (.next s)
  else
    match s.codec.rest with
    | [] => .answer (.next s)
    | c :: rest => .run (decodeCodeByte c) { s with codec := { s.codec with rest := rest } }

/-- What a move comes to. -/
def fetch (m : Move) (s : State) : Fetched :=
  match m with
  | .chanC => fetchC s
  | .chanR => fetchR s
  | .codeByte => fetchCode s
  | .txAccept => .answer (.next (txAccept s))
  | .rspTake => .answer (.next (takeRsp s))
  | .msgTake => .answer (.next (takeMsg s))
  | .cfgBoardId v also => .answer (.next (setBoardId v also s))
  | .rst midC midR => .answer (.next (resetMachine (abandon midC midR s)))

/-! Placing an instruction where the next step finds it (log entry 11). -/

/-- The request is the oldest on `c_req`, channel C can accept it and moves next. -/
def placeRequest (r : Request) (s : State) : State :=
  { s with cReq := r :: s.cReq, cPhase := .idle, cRsp := none, sched := .chanC :: s.sched }

/-- The byte is the oldest on `rx`, channel R can accept it and moves next. -/
def placeStream (b : Byte) (s : State) : State :=
  { s with rx := b :: s.rx, rxPend := none, sched := .chanR :: s.sched }

/-- The byte is in code position of a fresh working buffer, before as many zero literals as it announces,
and that buffer moves next. -/
def placeCode (c : Byte) (s : State) : State :=
  { s with codec := DecWork.start (c :: List.replicate (c.toNat - 1) 0x00#8), sched := .codeByte :: s.sched }

/-- An item placed where the next step fetches it. -/
def placeItem (it : Item) (s : State) : State :=
  match it with
  | .request r => placeRequest r s
  | .stream b => placeStream b s
  | .code c => placeCode c s

end Sys2Proof.Machine
end

