-- ==== Sys2Proof/Machine/Step.lean ====
section
/-! DEFINITION. One step of the machine: the next move of the schedule. -/

namespace Sys2Proof.Machine

/-- R7: a configuration that is not admitted is refused. Otherwise the next move of the schedule is made
(R20, log entry 7); with no move left no channel takes a step and all state is kept (R229). -/
def step (s : State) : Host.Outcome State Fault Refusal :=
  if configAdmitted s = false then .refused .configNotAdmitted
  else
    match s.sched with
    | [] => .next s
    | m :: ms =>
      match fetch m { s with sched := ms } with
      | .run i t => exec i t
      | .answer o => o

/-- `s` with the instruction of a table row placed where `step` fetches its next instruction (log
entry 11). -/
def State.withFetchWord (s : State) (nbits w : Nat) : State := placeItem (tableItem nbits w) s

end Sys2Proof.Machine
end

