-- ==== Sys2Proof/Safety.lean ====
section
/-! DEFINITION. What counts as a good state and a safe run of SBPF, and the few notions claims are stated
in. -/

namespace Sys2Proof.Safety

open Sys2Proof.Machine

/-! The invariant. -/

/-- R24, R40, R69: the cursor buffer has its canonical form, index CURSOR_CAP - 1 and above are never
written, CURSOR_IDX is at most CURSOR_CAP - 1, and no accumulated byte is a delimiter. -/
abbrev CursorOk (s : State) : Prop :=
  Memory.wf s.cursorBuf = true ∧ (∀ c ∈ s.cursorBuf, c.1 < s.cfg.cursorCap - 1) ∧
    s.cursorIdx ≤ s.cfg.cursorCap - 1 ∧ ∀ i < s.cursorIdx, Memory.read s.cursorBuf i ≠ Config.DELIM

/-- R76, R145, R149: a message is consistent: its id fits the header's 11 bits, its length is that of its
payload, and the cursor bounds it. -/
abbrev MsgOk (cap : Nat) (m : Msg) : Prop :=
  m.mid.toNat ≤ 2047 ∧ m.mlen.toNat = m.payload.length ∧ m.payload.length + 6 ≤ cap

/-- R166: the message `msg` offers is consistent. -/
abbrev PendOk (s : State) : Prop := ∀ m ∈ s.rxPend, MsgOk s.cfg.cursorCap m

/-- R69, R76, R181: a frame's length is that of its bytes, within MAX_FRAME, and its one 0x00 is its last
byte. -/
abbrev FrameOk (maxFrame : Nat) (f : Frame) : Prop :=
  f.flen.toNat = f.bytes.length ∧ f.bytes.length ≤ maxFrame ∧ f.bytes.getLast? = some Config.DELIM ∧
    Config.DELIM ∉ f.bytes.dropLast

/-- R183: while SEND waits, no response is pending, the frame offered is a frame, and the timer has not
passed a bounded TX_TIMEOUT. -/
abbrev WaitOk (s : State) : Prop :=
  s.cPhase = .txWait →
    s.cRsp = none ∧ FrameOk s.cfg.maxFrame s.cTxframe ∧ ∀ n ∈ s.cfg.txTimeout, s.cTxtimer ≤ n

/-- R63, R74: the response offered sets no reserved bit or code and counts its bytes. -/
abbrev RspOk (s : State) : Prop :=
  ∀ r ∈ s.cRsp, rspReservedClear r = true ∧ (rspLen r).toNat = r.rbuf.length

/-- The invariant of SBPF. -/
structure Inv (s : State) : Prop where
  cursor : CursorOk s
  pend   : PendOk s
  wait   : WaitOk s
  rsp    : RspOk s

/-- R60, R72: every item waiting on `c_req` is a request. -/
abbrev RequestsComplete (s : State) : Prop := ∀ r ∈ s.cReq, requestComplete r = true

/-! Two steps one after the other. -/

/-- `o`, and from its next state `f`. -/
def andThen (o : Host.Outcome State Fault Refusal) (f : State → Host.Outcome State Fault Refusal) :
    Host.Outcome State Fault Refusal :=
  match o with
  | .next s => f s
  | .fault e => .fault e
  | .refused e => .refused e

/-! The channels' instructions. -/

/-- R20, R61: the operations of channel C. -/
def isChanC : Instr → Bool
  | .encode _ | .decode _ | .chksum _ | .chkverify _ | .build _ | .parse _ | .send _ => true
  | .rxDelim | .rxData _ | .codeTerm | .codeRun _ | .codeFull => false

/-- R20, R70: the steps of channel R. -/
def isChanR : Instr → Bool
  | .rxDelim | .rxData _ => true
  | .encode _ | .decode _ | .chksum _ | .chkverify _ | .build _ | .parse _ | .send _
  | .codeTerm | .codeRun _ | .codeFull => false

/-! Counting and feeding. -/

/-- R105: F, the number of positions, the last excluded, at which a run reaches 254 non-zero bytes; `run`
is the length of the run before the bytes given. -/
def fullRuns : Nat → List Byte → Nat
  | _, [] => 0
  | run, b :: x =>
    if b = 0x00#8 then fullRuns 0 x
    else if run + 1 = 254 then (if x = [] then 0 else 1) + fullRuns 0 x
    else fullRuns (run + 1) x

/-- `n` byte steps of channel R, each message accepted at once. -/
def rxMoves (n : Nat) : List Move := (List.replicate n [Move.chanR, Move.msgTake]).flatten

/-- The bytes accumulated in the cursor (R161). -/
def cursorFrame (s : State) : List Byte := (List.range s.cursorIdx).map (Memory.read s.cursorBuf)

/-! Unspecified state. -/

/-- R23, R26, R30: the two states agree on everything but what is unspecified: the cursor bytes at and above
CURSOR_IDX, and C_TXFRAME and C_TXTIMER outside TX_WAIT. -/
def SameSpecified (s t : State) : Prop :=
  t = { s with cursorBuf := t.cursorBuf, cTxframe := t.cTxframe, cTxtimer := t.cTxtimer } ∧
    (∀ i < s.cursorIdx, Memory.read s.cursorBuf i = Memory.read t.cursorBuf i) ∧
    (s.cPhase = .txWait → s.cTxframe = t.cTxframe ∧ s.cTxtimer = t.cTxtimer)

/-- The two outcomes are of one kind, with states that agree on what is specified. -/
def SameOutcome : Host.Outcome State Fault Refusal → Host.Outcome State Fault Refusal → Prop
  | .next s, .next t => SameSpecified s t
  | .fault e, .fault f => e = f
  | .refused e, .refused f => e = f
  | _, _ => False

end Sys2Proof.Safety
end

