-- ==== Sys2Proof/Certificates/Slice0/Obligations.lean ====
section
/-! DEFINITION. The statements about SBPF, each from the numbered rules its docstring names. -/

open Sys2Proof Sys2Proof.Machine Sys2Proof.Safety

/-! Encodings. -/

/-- R20, R61, R70, R71: when the channel that moves next has an item that decodes to an instruction, the
item is well formed and the step is that instruction, with the item and the move taken. -/
def Obligations.StepRunsDecodedInstruction : Prop :=
  ∀ (s : State) (m : Move) (ms : List Move), configAdmitted s = true → s.sched = m :: ms →
    (∀ r rest i, m = .chanC → readyC s = true → s.cReq = r :: rest → decodeRequest r = .ok i →
      i.wf = true ∧ step s = exec i { s with sched := ms, cReq := rest }) ∧
    (∀ b rest, m = .chanR → readyR s = true → s.rx = b :: rest →
      (decodeStreamByte b).wf = true ∧
        step s = exec (decodeStreamByte b) { s with sched := ms, rx := rest }) ∧
    (∀ c rest, m = .codeByte → s.codec.term = false → s.codec.rest = c :: rest →
      (decodeCodeByte c).wf = true ∧
        step s = exec (decodeCodeByte c) { s with sched := ms, codec := { s.codec with rest := rest } })

/-- R60, R61, R70, R71, R77: requests and bytes written out from the spec's encodings decode to what they
stand for. -/
def Obligations.WrittenWordsDecode : Prop :=
  decodeRequest ⟨0x00011405#32, 0x00000000#32, []⟩ = .ok (.build ⟨20, 1, 0, []⟩) ∧
  decodeRequest ⟨0x00011407#32, 0x00030003#32, [0xAA, 0xBB, 0xCC]⟩ =
    .ok (.send ⟨20, 1, 3, [0xAA, 0xBB, 0xCC]⟩) ∧
  decodeRequest ⟨0x00000001#32, 0x00010000#32, [0x11]⟩ = .ok (.encode ⟨0, 0, 0, [0x11]⟩) ∧
  decodeRequest ⟨0x00000003#32, 0x00000000#32, []⟩ = .ok (.chksum ⟨0, 0, 0, []⟩) ∧
  decodeStreamByte 0x00#8 = .rxDelim ∧ decodeStreamByte 0x41#8 = .rxData 0x41#8 ∧
  decodeCodeByte 0x00#8 = .codeTerm ∧ decodeCodeByte 0xFE#8 = .codeRun 0xFE#8 ∧
  decodeCodeByte 0xFF#8 = .codeFull

/-- R60, R61, R70, R71: decoding what an instruction is encoded as gives it back, for every well-formed
instruction with every operand. -/
def Obligations.DecodeOfEncode : Prop :=
  ∀ i : Instr, i.wf = true → decodeItem (encodeItem i) = .ok i

/-- R60, R61, R70, R71: no two items decode to one instruction; what decodes is well formed and is encoded
as the item it came from. -/
def Obligations.EncodeOfDecode : Prop :=
  ∀ (it : Item) (i : Instr), decodeItem it = .ok i → i.wf = true ∧ encodeItem i = it

/-- R63, R74: the fields of a response are read back from its words as they were packed, and no reserved bit
or code is produced. -/
def Obligations.ResponseFieldsReadBack : Prop :=
  ∀ f : RspFields,
    rspStatus (packRsp f) = statusCode f.status ∧ rspTerm (packRsp f) = f.term ∧
    rspTrunc (packRsp f) = f.trunc ∧ rspEmpty (packRsp f) = f.empty ∧ rspCmd (packRsp f) = f.rcmd ∧
    rspId (packRsp f) = f.rid ∧ rspVal (packRsp f) = f.val ∧
    rspLen (packRsp f) = BitVec.ofNat 16 f.rbuf.length ∧ (packRsp f).rbuf = f.rbuf ∧
    rspReservedClear (packRsp f) = true

/-- R64, R76, R203: the number of each status code, the code of each event, and the counter each event owes
one increment of. -/
def Obligations.StatusAndEventCodes : Prop :=
  [Status.ok, .malformed, .decodeError, .rxOverflow, .checksumError, .unrecognizedId, .txOverflow, .sizeError,
    .queueSendError, .illegalOp, .operandError].map statusCode =
    [0x0#4, 0x1#4, 0x2#4, 0x3#4, 0x4#4, 0x5#4, 0x6#4, 0x7#4, 0x8#4, 0x9#4, 0xA#4] ∧
  [Event.malformed, .decodeError, .rxOverflow, .checksumError, .unrecognizedId, .txOverflow,
    .queueSendError].map (fun e => (eventCode e, eventCounter e)) =
    [(0x1#4, Counter.malformedMessage), (0x2#4, .decodeError), (0x3#4, .rxBufferOverflow),
      (0x4#4, .checksumError), (0x5#4, .unrecognizedId), (0x6#4, .txBufferOverflow), (0x8#4, .queueSendError)]

/-! Requests. -/

/-- R62, R73: the operand contract, in its order. An illegal request is answered ILLEGAL_OP, a request that
breaks the contract OPERAND_ERROR, with every other response field zero, and nothing else changes than that
the request and the move are taken (the moves are log entry 7). An item without its operand bytes is no request
(log entries 13 and 22). -/
def Obligations.RequestChecksInOrder : Prop :=
  ∀ (s : State) (ms : List Move) (r : Request) (rest : List Request),
    configAdmitted s = true → s.sched = .chanC :: ms → readyC s = true → s.cReq = r :: rest →
    requestComplete r = true →
    let t : State := { s with sched := ms, cReq := rest }
    let illegal : Prop := r.req0.extractLsb' 4 4 ≠ 0#4 ∨ r.req0.extractLsb' 29 3 ≠ 0#3 ∨
      r.req1.extractLsb' 8 8 ≠ 0#8 ∨ r.req0.extractLsb' 0 4 = 0#4 ∨ 8 ≤ (r.req0.extractLsb' 0 4).toNat
    let tooLong : Prop := s.cfg.bufMax < (r.req1.extractLsb' 16 16).toNat
    (illegal → step s = .next { t with cRsp := some ⟨0x00000009#32, 0#32, []⟩ }) ∧
    (¬ illegal → tooLong → step s = .next { t with cRsp := some ⟨0x0000000A#32, 0#32, []⟩ }) ∧
    (¬ illegal → ¬ tooLong → (r.req0.extractLsb' 0 4 = 0x5#4 ∨ r.req0.extractLsb' 0 4 = 0x7#4) →
      (r.req1.extractLsb' 16 16).toNat ≠ (r.req1.extractLsb' 0 8).toNat →
      step s = .next { t with cRsp := some ⟨0x0000000A#32, 0#32, []⟩ })

/-- R61: the operand fields an operation does not use have no effect. -/
def Obligations.UnusedOperandsIgnored : Prop :=
  ∀ (s : State) (o o' : Operands), o.buf = o'.buf →
    exec (.encode o) s = exec (.encode o') s ∧ exec (.decode o) s = exec (.decode o') s ∧
    exec (.chksum o) s = exec (.chksum o') s ∧ exec (.chkverify o) s = exec (.chkverify o') s ∧
    exec (.parse o) s = exec (.parse o') s

/-- R166, R252: a busy channel accepts no input and drops none. Channel C is busy while a SEND waits or a
response is not taken, channel R while RX_PEND holds a message. That `exec` on a busy channel leaves the state
as it is is the model's reading (log entry 12). -/
def Obligations.BusyChannelsWait : Prop :=
  (∀ s : State, (s.cPhase = .txWait ∨ s.cRsp ≠ none) →
    (∀ i, isChanC i = true → exec i s = .next s) ∧
    (∀ ms, configAdmitted s = true → s.sched = .chanC :: ms → ∃ t, step s = .next t ∧ t.cReq = s.cReq) ∧
    (∀ ms, configAdmitted s = true → s.cPhase = .idle → s.sched = .chanC :: ms →
      step s = .next { s with sched := ms })) ∧
  (∀ (s : State) (m : Msg), s.rxPend = some m →
    (∀ i, isChanR i = true → exec i s = .next s) ∧
    (∀ ms, configAdmitted s = true → s.sched = .chanR :: ms → step s = .next { s with sched := ms }))

/-! The frame codec. -/

/-- R100: ENCODE answers OK with cobs_encode(buf), or OPERAND_ERROR, and changes nothing else; its corner
cases and example. -/
def Obligations.EncodeAnswers : Prop :=
  (∀ (s : State) (o : Operands), readyC s = true →
    exec (.encode o) s = .next { s with
      cRsp := some (if s.cfg.bufMax < o.buf.length then ⟨0x0000000A#32, 0#32, []⟩
       else ⟨0#32, (BitVec.ofNat 16 (cobsEncode o.buf).length).setWidth 32 <<< 16, cobsEncode o.buf⟩) }) ∧
  cobsEncode [] = [0x01#8] ∧ cobsEncode [0x11#8] = [0x02#8, 0x11#8] ∧
  (∀ x, 0x00#8 ∉ cobsEncode x) ∧
  (∀ x : List Byte, x.length = 254 → 0x00#8 ∉ x → cobsEncode x = 0xFF#8 :: x)

/-- R101: DECODE answers OK with cobs_decode(buf) and its flags, or OPERAND_ERROR, and changes nothing else;
its corner cases and example. -/
def Obligations.DecodeAnswers : Prop :=
  (∀ (s : State) (o : Operands), readyC s = true →
    exec (.decode o) s = .next { s with
      cRsp := some (if s.cfg.bufMax < o.buf.length then ⟨0x0000000A#32, 0#32, []⟩
       else
        let d := cobsDecode o.buf
        ⟨(BitVec.ofBool d.term).setWidth 32 <<< 4 ||| (BitVec.ofBool d.trunc).setWidth 32 <<< 5 |||
            (BitVec.ofBool d.out.isEmpty).setWidth 32 <<< 6,
          (BitVec.ofNat 16 d.out.length).setWidth 32 <<< 16, d.out⟩) }) ∧
  cobsDecode [] = ⟨[], false, false⟩ ∧ cobsDecode [0x01#8] = ⟨[], false, false⟩ ∧
  cobsDecode [0x01#8, 0x01#8] = ⟨[0x00#8], false, false⟩ ∧
  cobsDecode [0x02#8, 0x11#8, 0x00#8, 0x02#8, 0x22#8] = ⟨[0x11#8], true, false⟩ ∧
  cobsDecode [0x03#8, 0x00#8, 0x05#8] = ⟨[0x00#8, 0x05#8], false, false⟩ ∧
  cobsDecode [0x05#8, 0xAA#8, 0xBB#8] = ⟨[0xAA#8, 0xBB#8], false, true⟩

/-- R112: CODE_TERM stops decoding: the flag is set, the output keeps what it has, no zero is restored, and
every byte after it is ignored. The instruction acts on the codec's working buffer, the model's own field (log
entry 9). -/
def Obligations.CodeTermStops : Prop :=
  (∀ s : State, exec .codeTerm s = .next { s with codec := { s.codec with term := true } }) ∧
  (∀ e tl : List Byte, (cobsDecode e).trunc = false → (cobsDecode e).term = false →
    cobsDecode (e ++ 0x00#8 :: tl) = ⟨(cobsDecode e).out, true, false⟩) ∧
  (∀ s : State, s.codec.term = true →
    exec .codeTerm s = .next s ∧ (∀ c, exec (.codeRun c) s = .next s) ∧ exec .codeFull s = .next s) ∧
  cobsDecode [0x02#8, 0x11#8, 0x00#8, 0x02#8, 0x22#8] = ⟨[0x11#8], true, false⟩

/-- R110, R111, R113: CODE_RUN and CODE_FULL copy the literals they announce, or as many as there are, after
the zero that the block before them stands for (none before the first block or after a full one), and report
a block cut short. The working buffer is the model's own field (log entry 9). -/
def Obligations.CodeBlocksCopyLiterals : Prop :=
  ∀ (s : State) (c : Byte), s.codec.term = false → c ≠ 0x00#8 →
    let k := min (c.toNat - 1) s.codec.rest.length
    let t : State := { s with codec :=
      { rest := s.codec.rest.drop k,
        out := s.codec.out ++ (if s.codec.prev = 0xFF#8 then [] else [0x00#8]) ++ s.codec.rest.take k,
        prev := c, term := false, trunc := decide (s.codec.rest.length < c.toNat - 1) } }
    (c ≠ 0xFF#8 → exec (.codeRun c) s = .next t) ∧ (c = 0xFF#8 → exec .codeFull s = .next t)

/-- R71, R103: running the code bytes of a sequence one instruction at a time, until none is left, gives
what cobs_decode gives in one step. The working buffer and the moves are the model's (log entries 7 and 9). -/
def Obligations.CodeBytesComputeDecode : Prop :=
  ∀ (e : List Byte) (s : State) (ms : List Move), configAdmitted s = true → s.codec = DecWork.start e →
    s.sched = List.replicate e.length Move.codeByte ++ ms →
    ∃ t : State, Host.Core.run Sys2Proof.core e.length s = .next t ∧ t.sched = ms ∧
      (⟨t.codec.out, t.codec.term, t.codec.trunc⟩ : DecResult) = cobsDecode e

/-- R104: cobs_encode(X) never contains 0x00. -/
def Obligations.EncodedHasNoZero : Prop :=
  ∀ x : List Byte, 0x00#8 ∉ cobsEncode x

/-- R105: the length of an encoding, exactly and in its bounds, and the worst case of a packet against the
frame bound of R7. -/
def Obligations.EncodedLength : Prop :=
  (∀ x : List Byte, (cobsEncode x).length = x.length + 1 + fullRuns 0 x) ∧
  (cobsEncode []).length = 1 ∧
  (∀ x : List Byte, 1 ≤ x.length → x.length + 1 ≤ (cobsEncode x).length ∧
    (cobsEncode x).length ≤ x.length + 1 + (x.length - 1) / 254) ∧
  (∀ x : List Byte, 1 ≤ x.length → 0x00#8 ∉ x →
    (cobsEncode x).length = x.length + 1 + (x.length - 1) / 254) ∧
  (∀ x : List Byte, x.length ≤ 254 → 0x00#8 ∉ x → (cobsEncode x).length = x.length + 1) ∧
  (∀ (maxPayload : Nat) (x : List Byte), x.length = maxPayload + 4 →
    (cobsEncode x).length ≤ maxPayload + 5 + (maxPayload + 3) / 254 ∧
    maxPayload + 5 + (maxPayload + 3) / 254 + 1 = maxPayload + 6 + (maxPayload + 3) / 254)

/-- R106: decoding an encoding gives the bytes back, with both flags false. -/
def Obligations.DecodeInvertsEncode : Prop :=
  ∀ x : List Byte, cobsDecode (cobsEncode x) = ⟨x, false, false⟩

/-- R107: decoding never expands; a cursor of at most CURSOR_CAP - 1 bytes decodes into at most
CURSOR_CAP - 2 bytes. -/
def Obligations.DecodeNeverExpands : Prop :=
  (∀ e : List Byte, (cobsDecode e).out.length ≤ e.length - 1) ∧
  (∀ (cap : Nat) (e : List Byte), 2 ≤ cap → e.length ≤ cap - 1 → (cobsDecode e).out.length ≤ cap - 2)

/-- R116: the decoder accepts what the encoder never produces: a full block with and without a trailing
0x01 decode alike, and only the second is the encoder's. -/
def Obligations.DecodeNotInjective : Prop :=
  ∀ l : List Byte, l.length = 254 → 0x00#8 ∉ l →
    cobsDecode (0xFF#8 :: l ++ [0x01#8]) = ⟨l, false, false⟩ ∧ cobsDecode (0xFF#8 :: l) = ⟨l, false, false⟩ ∧
    cobsEncode l = 0xFF#8 :: l ∧ cobsEncode l ≠ 0xFF#8 :: l ++ [0x01#8]

/-! The checksum unit. -/

/-- R130: CHKSUM answers OK with the checksum in `val`, or OPERAND_ERROR, and changes nothing else; its
corner cases and example. -/
def Obligations.ChksumAnswers : Prop :=
  (∀ (s : State) (o : Operands), readyC s = true →
    exec (.chksum o) s = .next { s with
      cRsp := some (if s.cfg.bufMax < o.buf.length then ⟨0x0000000A#32, 0#32, []⟩
       else ⟨0#32, (chk o.buf).setWidth 32, []⟩) }) ∧
  chk [] = 0x00#8 ∧ (∀ l : List Byte, chk (l ++ [chk l]) = 0x00#8) ∧
  (∀ (b : Byte) (n : Nat), chk (List.replicate (2 * n) b) = 0x00#8) ∧
  chk [0x00#8, 0x34#8, 0x00#8] = 0x34#8

/-- R131: CHKVERIFY answers MALFORMED for no bytes, else OK or CHECKSUM_ERROR with the recomputed checksum,
or OPERAND_ERROR, and changes nothing else. -/
def Obligations.ChkverifyAnswers : Prop :=
  ∀ (s : State) (o : Operands), readyC s = true →
    (s.cfg.bufMax < o.buf.length →
      exec (.chkverify o) s = .next { s with cRsp := some ⟨0x0000000A#32, 0#32, []⟩ }) ∧
    (o.buf.length ≤ s.cfg.bufMax → o.buf = [] →
      exec (.chkverify o) s = .next { s with cRsp := some ⟨0x00000001#32, 0#32, []⟩ }) ∧
    (∀ (l : List Byte) (c : Byte), o.buf.length ≤ s.cfg.bufMax → o.buf = l ++ [c] →
      exec (.chkverify o) s = .next { s with
        cRsp := some ⟨if chk l = c then 0x00000000#32 else 0x00000004#32, (chk l).setWidth 32, []⟩ })

/-- R132: the checksum is the exclusive or of every byte, taken in any order, 0x00 for none; a packet's last
byte is that of the bytes before it. -/
def Obligations.ChecksumIsXorInAnyOrder : Prop :=
  chk [] = 0x00#8 ∧ (∀ (b : Byte) (l : List Byte), chk (b :: l) = b ^^^ chk l) ∧
  (∀ l l' : List Byte, l.Perm l' → chk l = chk l') ∧
  (∀ (id : BitVec 13) (cmd : BitVec 8) (p : List Byte), ∃ body,
    pktBuild id cmd p = body ++ [chk body])

/-- R133: for at least one byte, the trailing checksum matches exactly when the checksum of all bytes is
0x00. -/
def Obligations.TrailingChecksumMatchesIffZero : Prop :=
  ∀ (l : List Byte) (c : Byte), chk l = c ↔ chk (l ++ [c]) = 0x00#8

/-- R134: a change of a checked sequence into another of its length is detected exactly when the exclusive
or of the changed bits, column by column, is not zero; so a change of one byte is always detected, and
swapping two bytes never is. -/
def Obligations.ChecksumDetection : Prop :=
  (∀ p q : List Byte, p.length = q.length → chk p = 0x00#8 →
    (chk q ≠ 0x00#8 ↔ chk (List.zipWith (fun a b => a ^^^ b) p q) ≠ 0x00#8)) ∧
  (∀ (a z : List Byte) (b c : Byte), chk (a ++ b :: z) = 0x00#8 → b ≠ c → chk (a ++ c :: z) ≠ 0x00#8) ∧
  (∀ (x y z : List Byte) (b c : Byte), chk (x ++ b :: y ++ c :: z) = chk (x ++ c :: y ++ b :: z)) ∧
  (∀ (x y z : List Byte) (b c d : Byte), chk (x ++ (b ^^^ d) :: y ++ (c ^^^ d) :: z) = chk (x ++ b :: y ++ c :: z))

/-! Packets. -/

/-- R65, R66: where the bytes of a packet stand, and the header fields read back from them. -/
def Obligations.PacketLayout : Prop :=
  ∀ (id : BitVec 13) (cmd : BitVec 8) (p : List Byte), p.length ≤ 255 →
    ∃ b0 b1 : Byte, ∃ c : Byte,
      pktBuild id cmd p = [b0, b1, BitVec.ofNat 8 p.length] ++ p ++ [c] ∧
      (pktBuild id cmd p).length = p.length + 4 ∧
      b0 = id.extractLsb' 3 8 ∧ b1 = (id.extractLsb' 0 3 ++ cmd.extractLsb' 0 5 : BitVec 8) ∧
      c = b0 ^^^ b1 ^^^ BitVec.ofNat 8 p.length ^^^ chk p ∧
      headerId b0 b1 = id.setWidth 11 ∧ headerCmd b1 = cmd.setWidth 5

/-- R140: BUILD answers SIZE_ERROR or OK with the packet, or OPERAND_ERROR, and changes nothing else; its
example. -/
def Obligations.BuildAnswers : Prop :=
  (∀ (s : State) (o : Operands), readyC s = true →
    exec (.build o) s = .next { s with
      cRsp := some (if s.cfg.bufMax < o.buf.length ∨ o.buf.length ≠ o.len.toNat then ⟨0x0000000A#32, 0#32, []⟩
       else if s.cfg.maxPayload < o.len.toNat then ⟨0x00000007#32, 0#32, []⟩
       else ⟨0#32, (BitVec.ofNat 16 (o.len.toNat + 4)).setWidth 32 <<< 16, pktBuild o.id o.cmd o.buf⟩) }) ∧
  pktBuild 1 20 [] = [0x00#8, 0x34#8, 0x00#8, 0x34#8]

/-- R143, R144: which verdict pkt_parse gives: the size and the length byte first, then the checksum, then
the board id. -/
def Obligations.ParsePrecedence : Prop :=
  ∀ (d : List Byte) (bid : Nat),
    let badSize : Prop := d.length < 4 ∨ (d.getD 2 0).toNat ≠ d.length - 4
    let badSum : Prop := chk (d.take (d.length - 1)) ≠ d.getD (d.length - 1) 0
    let badId : Prop := (headerId (d.getD 0 0) (d.getD 1 0)).toNat ≠ bid
    (pktParse d bid = .error .malformed ↔ badSize) ∧
    (pktParse d bid = .error .checksumError ↔ ¬ badSize ∧ badSum) ∧
    (pktParse d bid = .error .unrecognizedId ↔ ¬ badSize ∧ ¬ badSum ∧ badId) ∧
    ((∃ r, pktParse d bid = .ok r) ↔ ¬ badSize ∧ ¬ badSum ∧ ¬ badId)

/-- R149: what pkt_parse accepts is exactly a packet: the bytes are those BUILD makes of the fields returned,
whose id is the board's, so length and checksum agree with them. -/
def Obligations.ParseAcceptsExactlyPackets : Prop :=
  ∀ (d : List Byte) (bid : Nat) (r : Parsed),
    pktParse d bid = .ok r ↔
      r.id.toNat = bid ∧ r.len.toNat = r.payload.length ∧
      d = pktBuild (r.id.setWidth 13) (r.cmd.setWidth 8) r.payload

/-- R147, R148: parsing what was built gives back the command's low 5 bits, the length and the payload, and
the id without its bits 12:11; any other board does not recognise it. -/
def Obligations.ParseInvertsBuild : Prop :=
  ∀ (id : BitVec 13) (cmd : BitVec 8) (p : List Byte) (bid : Nat), p.length ≤ 255 →
    pktParse (pktBuild id cmd p) bid =
      if id.toNat % 2048 = bid then
        .ok { id := id.setWidth 11, cmd := cmd.setWidth 5, len := BitVec.ofNat 8 p.length, payload := p }
      else .error .unrecognizedId

/-- R141: PARSE answers OK with the packet's fields, or the verdict with every other field zero, or
OPERAND_ERROR, and changes nothing else than the count of free draws (log entry 6); with a stable BOARD_ID it
compares that and draws nothing. -/
def Obligations.ParseAnswers : Prop :=
  ∀ (s : State) (o : Operands), readyC s = true →
    (s.cfg.bufMax < o.buf.length →
      exec (.parse o) s = .next { s with cRsp := some ⟨0x0000000A#32, 0#32, []⟩ }) ∧
    (o.buf.length ≤ s.cfg.bufMax →
      exec (.parse o) s = .next { afterBoardIdC s with
        cRsp := some (match pktParse o.buf (boardIdC s) with
         | .ok r => ⟨r.cmd.setWidth 32 <<< 8 ||| r.id.setWidth 32 <<< 16,
             r.len.setWidth 32 ||| r.len.setWidth 32 <<< 16, r.payload⟩
         | .error .malformed => ⟨0x00000001#32, 0#32, []⟩
         | .error .checksumError => ⟨0x00000004#32, 0#32, []⟩
         | .error .unrecognizedId => ⟨0x00000005#32, 0#32, []⟩) }) ∧
    (s.boardIdAlso = [] → boardIdC s = s.boardId ∧ afterBoardIdC s = s) ∧
    pktParse [0x00#8, 0x34#8, 0x00#8, 0x34#8] 1 = .ok ⟨1, 20, 0, []⟩

/-- R27, R250: the board id a PARSE or an RX_DELIM compares is a value the input holds, its one value when it
is stable; a change between steps has effect from the next read. -/
def Obligations.BoardIdReadIsHeld : Prop :=
  (∀ s : State, boardIdC s ∈ s.boardId :: s.boardIdAlso ∧ boardIdR s ∈ s.boardId :: s.boardIdAlso) ∧
  (∀ (s : State) (v : Nat) (ms : List Move), configAdmitted s = true → s.sched = .cfgBoardId v [] :: ms →
    ∃ t, step s = .next t ∧ boardIdC t = v ∧ boardIdR t = v)

/-! The receive deframer. -/

/-- R160: RX_DATA stores its byte at CURSOR_IDX when there is room, else discards it, empties the cursor and
emits RX_OVERFLOW. -/
def Obligations.RxDataAnswers : Prop :=
  ∀ (s : State) (b : Byte), b ≠ 0x00#8 → s.rxPend = none →
    (s.cursorIdx < s.cfg.cursorCap - 1 →
      ∃ m, exec (.rxData b) s = .next { s with cursorBuf := m, cursorIdx := s.cursorIdx + 1 } ∧
        ∀ i, Memory.read m i = if i = s.cursorIdx then b else Memory.read s.cursorBuf i) ∧
    (s.cfg.cursorCap - 1 ≤ s.cursorIdx →
      exec (.rxData b) s = .next { s with
        cursorIdx := 0, log := { s.log with rEvt := s.log.rEvt ++ [.rxOverflow] } })

/-- R161, R162: RX_DELIM on an empty cursor emits MALFORMED; otherwise it empties the cursor, decodes the
bytes it held and parses them, and either emits one event or places one message. A cursor with no 0x00 never
stops the decoder early. The rule's example of a truncated frame that is delivered. Where BOARD_ID is not
stable the id compared is the model's free draw (log entry 6). -/
def Obligations.RxDelimAnswers : Prop :=
  (∀ s : State, s.rxPend = none → s.cursorIdx ≤ s.cfg.cursorCap →
    exec .rxDelim s = .next
      (if s.cursorIdx = 0 then { s with log := { s.log with rEvt := s.log.rEvt ++ [.malformed] } }
       else if (cobsDecode (cursorFrame s)).out = [] ∨
          ((cobsDecode (cursorFrame s)).trunc = true ∧ s.cfg.truncPolicy = .error) then
        { s with cursorIdx := 0, log := { s.log with rEvt := s.log.rEvt ++ [.decodeError] } }
       else
        match pktParse (cobsDecode (cursorFrame s)).out (boardIdR s) with
        | .ok r => { afterBoardIdR s with
            cursorIdx := 0, rxPend := some ⟨r.id.setWidth 13, r.cmd, r.len, r.payload⟩ }
        | .error .malformed => { afterBoardIdR s with
            cursorIdx := 0, log := { s.log with rEvt := s.log.rEvt ++ [.malformed] } }
        | .error .checksumError => { afterBoardIdR s with
            cursorIdx := 0, log := { s.log with rEvt := s.log.rEvt ++ [.checksumError] } }
        | .error .unrecognizedId => { afterBoardIdR s with
            cursorIdx := 0, log := { s.log with rEvt := s.log.rEvt ++ [.unrecognizedId] } })) ∧
  (∀ s : State, (∀ i < s.cursorIdx, Memory.read s.cursorBuf i ≠ 0x00#8) →
    (cobsDecode (cursorFrame s)).term = false) ∧
  cobsDecode [0x01#8, 0x02#8, 0x34#8, 0x05#8, 0x34#8] = ⟨[0x00#8, 0x34#8, 0x00#8, 0x34#8], false, true⟩ ∧
  pktParse [0x00#8, 0x34#8, 0x00#8, 0x34#8] 1 = .ok ⟨1, 20, 0, []⟩

/-- R163: a byte step of channel R emits at most one event and places at most one message, never both, and a
delimiter has exactly one outcome. -/
def Obligations.OneOutcomePerByte : Prop :=
  ∀ s : State, s.rxPend = none → s.cursorIdx ≤ s.cfg.cursorCap →
    (∀ b, ∃ t, exec (.rxData b) s = .next t ∧ t.rxPend = none ∧
      (t.log.rEvt = s.log.rEvt ∨ t.log.rEvt = s.log.rEvt ++ [.rxOverflow])) ∧
    (∃ t, exec .rxDelim s = .next t ∧ t.cursorIdx = 0 ∧
      ((t.rxPend = none ∧ ∃ e ∈ [Event.malformed, .decodeError, .checksumError, .unrecognizedId],
          t.log.rEvt = s.log.rEvt ++ [e]) ∨
       (t.log.rEvt = s.log.rEvt ∧ ∃ m, t.rxPend = some m)))

/-- R164: a run of `k` data bytes emits exactly `floor((i0 + k) / CURSOR_CAP)` RX_OVERFLOW events, leaves
`CURSOR_IDX = (i0 + k) mod CURSOR_CAP`, and never writes index CURSOR_CAP - 1. -/
def Obligations.OverflowCount : Prop :=
  ∀ (bs rest : List Byte) (s : State) (ms : List Move), configAdmitted s = true → s.rxPend = none →
    s.cursorIdx ≤ s.cfg.cursorCap - 1 → 0x00#8 ∉ bs → s.rx = bs ++ rest →
    s.sched = List.replicate bs.length Move.chanR ++ ms →
    ∃ t : State, Host.Core.run Sys2Proof.core bs.length s = .next t ∧
      t.log.rEvt = s.log.rEvt ++
        List.replicate ((s.cursorIdx + bs.length) / s.cfg.cursorCap) Event.rxOverflow ∧
      t.cursorIdx = (s.cursorIdx + bs.length) % s.cfg.cursorCap ∧
      Memory.read t.cursorBuf (s.cfg.cursorCap - 1) = Memory.read s.cursorBuf (s.cfg.cursorCap - 1) ∧
      t.rxPend = none ∧ t.rx = rest ∧ t.sched = ms

/-- R165: after any bytes and a delimiter, a frame for this board that fits the cursor is delivered by its
delimiter, whatever came before, and owes no event. BOARD_ID is stable, and the order of moves, each message accepted at
once, is the model's (log entry 7). -/
def Obligations.Resynchronisation : Prop :=
  ∀ (g : List Byte) (cmd : BitVec 8) (p : List Byte) (s : State) (rest : List Byte) (ms : List Move),
    configAdmitted s = true → s.boardIdAlso = [] → s.rxPend = none → s.cursorIdx ≤ s.cfg.cursorCap - 1 →
    p.length ≤ 255 →
    let e := cobsEncode (pktBuild (BitVec.ofNat 13 s.boardId) cmd p)
    e.length ≤ s.cfg.cursorCap - 1 →
    s.rx = g ++ [0x00#8] ++ e ++ [0x00#8] ++ rest →
    s.sched = rxMoves (g.length + 1) ++ rxMoves (e.length + 1) ++ ms →
    ∃ t u : State, Host.Core.run Sys2Proof.core (2 * (g.length + 1)) s = .next t ∧
      Host.Core.run Sys2Proof.core (2 * (e.length + 1)) t = .next u ∧
      t.cursorIdx = 0 ∧ u.cursorIdx = 0 ∧ u.log.rEvt = t.log.rEvt ∧
      u.log.msg = t.log.msg ++
        [⟨BitVec.ofNat 13 s.boardId, cmd.setWidth 5, BitVec.ofNat 8 p.length, p⟩]

/-- R164, R165 (the source's property S9): from an empty cursor, a frame whose checksum alone is wrong
followed by a valid frame costs exactly one CHECKSUM_ERROR, and the valid message is delivered. The order of
moves is the model's (log entry 7). -/
def Obligations.CorruptedFrameThenValidFrame : Prop :=
  ∀ (id : BitVec 13) (cmd cmd' : BitVec 8) (q p : List Byte) (c : Byte) (s : State) (ms : List Move),
    configAdmitted s = true → s.boardIdAlso = [] → s.rxPend = none → s.cursorIdx = 0 →
    q.length ≤ 255 → p.length ≤ 255 → c ≠ 0x00#8 →
    let good := pktBuild id cmd q
    let bad := good.dropLast ++ [good.getLastD 0x00#8 ^^^ c]
    let e := cobsEncode bad
    let f := cobsEncode (pktBuild (BitVec.ofNat 13 s.boardId) cmd' p)
    e.length ≤ s.cfg.cursorCap - 1 → f.length ≤ s.cfg.cursorCap - 1 →
    s.rx = e ++ [0x00#8] ++ f ++ [0x00#8] →
    s.sched = rxMoves (e.length + 1 + (f.length + 1)) ++ ms →
    ∃ u : State, Host.Core.run Sys2Proof.core (2 * (e.length + 1 + (f.length + 1))) s = .next u ∧
      u.log.rEvt = s.log.rEvt ++ [.checksumError] ∧
      u.log.msg = s.log.msg ++
        [⟨BitVec.ofNat 13 s.boardId, cmd'.setWidth 5, BitVec.ofNat 8 p.length, p⟩] ∧
      u.cursorIdx = 0 ∧ u.rxPend = none

/-- R145: the receive path bounds a message's payload by the cursor, not by MAX_PAYLOAD. -/
def Obligations.ReceivedLengthBounded : Prop :=
  ∀ (s t : State) (m : Msg), s.cursorIdx ≤ s.cfg.cursorCap - 1 → s.rxPend = none →
    exec .rxDelim s = .next t → t.rxPend = some m →
    m.mlen.toNat = m.payload.length ∧ m.mlen.toNat + 6 ≤ s.cfg.cursorCap ∧
    m.mid.toNat ∈ s.boardId :: s.boardIdAlso

/-! The transmit framer. -/

/-- R180: SEND answers TX_OVERFLOW with one event, or offers its frame and waits, or answers OPERAND_ERROR,
and changes nothing else; its example. -/
def Obligations.SendAnswers : Prop :=
  (∀ (s : State) (o : Operands), readyC s = true →
    let t := cobsEncode (pktBuild o.id o.cmd o.buf) ++ [0x00#8]
    exec (.send o) s = .next
      (if s.cfg.bufMax < o.buf.length ∨ o.buf.length ≠ o.len.toNat then
        { s with cRsp := some ⟨0x0000000A#32, 0#32, []⟩ }
       else if s.cfg.maxPayload < o.len.toNat ∨ s.cfg.maxFrame < t.length then
        { s with
          cRsp := some ⟨0x00000006#32, 0#32, []⟩, log := { s.log with cEvt := s.log.cEvt ++ [.txOverflow] } }
       else
        { s with cTxframe := ⟨BitVec.ofNat 16 t.length, t⟩, cTxtimer := 0, cPhase := .txWait })) ∧
  cobsEncode (pktBuild 1 20 [0xAA#8, 0xBB#8, 0xCC#8]) ++ [0x00#8] =
    [0x01#8, 0x07#8, 0x34#8, 0x03#8, 0xAA#8, 0xBB#8, 0xCC#8, 0xEA#8, 0x00#8]

/-- R183: the three steps of SEND's wait: accept, tick, timeout. Which of them comes is the schedule's (log
entry 7). -/
def Obligations.SendWaitSteps : Prop :=
  ∀ (s : State) (m : Move) (ms : List Move), configAdmitted s = true → s.cPhase = .txWait →
    s.sched = m :: ms →
    (m = .txAccept → step s = .next { s with
      sched := ms, cPhase := .idle, cRsp := some ⟨0#32, 0#32, []⟩,
      log := { s.log with tx := s.log.tx ++ [s.cTxframe] } }) ∧
    (m = .chanC → (∀ n ∈ s.cfg.txTimeout, s.cTxtimer < n) →
      step s = .next { s with sched := ms, cTxtimer := s.cTxtimer + 1 }) ∧
    (∀ n, m = .chanC → s.cfg.txTimeout = some n → n ≤ s.cTxtimer → step s = .next { s with
      sched := ms, cPhase := .idle, cRsp := some ⟨0x00000008#32, 0#32, []⟩,
      log := { s.log with cEvt := s.log.cEvt ++ [.queueSendError] } })

/-- R183, R221: with a bounded TX_TIMEOUT a wait that the queue never ends by accepting ends after the ticks
that are left and one timeout, with QUEUE_SEND_ERROR, and the frame is dropped. -/
def Obligations.SendWaitEnds : Prop :=
  ∀ (n : Nat) (s : State) (ms : List Move), configAdmitted s = true → s.cPhase = .txWait →
    s.cfg.txTimeout = some n → s.cTxtimer ≤ n →
    s.sched = List.replicate (n - s.cTxtimer + 1) Move.chanC ++ ms →
    ∃ t : State, Host.Core.run Sys2Proof.core (n - s.cTxtimer + 1) s = .next t ∧
      t.cPhase = .idle ∧ t.cRsp = some ⟨0x00000008#32, 0#32, []⟩ ∧
      t.log.cEvt = s.log.cEvt ++ [.queueSendError] ∧ t.log.tx = s.log.tx ∧ t.sched = ms

/-- R181: SEND's frame has exactly one 0x00, at its end, and the bytes before it decode to the packet. -/
def Obligations.SentFrameShape : Prop :=
  ∀ (id : BitVec 13) (cmd : BitVec 8) (p : List Byte), ∃ e,
    txFrame id cmd p = e ++ [0x00#8] ∧ e = cobsEncode (pktBuild id cmd p) ∧ 0x00#8 ∉ e ∧
    cobsDecode e = ⟨pktBuild id cmd p, false, false⟩

/-- R182: in an admitted configuration the frame check of SEND never fails. -/
def Obligations.FrameCheckNeverFails : Prop :=
  ∀ (s : State) (id : BitVec 13) (cmd : BitVec 8) (p : List Byte), configAdmitted s = true →
    p.length ≤ s.cfg.maxPayload →
    (txFrame id cmd p).length ≤ s.cfg.maxPayload + 6 + (s.cfg.maxPayload + 3) / 254 ∧
    (txFrame id cmd p).length ≤ s.cfg.maxFrame

/-- R184, R185: every SEND ends with exactly one status and at most one event: it answers at once, with at
most one event and nothing left on `tx`, or it waits with no event; a step of the wait ends it with one
response and at most one event, or leaves it waiting with none. A payload longer than MAX_PAYLOAD is answered
TX_OVERFLOW with one event. -/
def Obligations.OneStatusPerSend : Prop :=
  (∀ (s : State) (o : Operands), readyC s = true → ∃ t, exec (.send o) s = .next t ∧
    ((t.cPhase = .idle ∧ (∃ r, t.cRsp = some r) ∧ t.cTxframe = s.cTxframe ∧ t.log.tx = s.log.tx ∧
        (t.log.cEvt = s.log.cEvt ∨ ∃ e, t.log.cEvt = s.log.cEvt ++ [e])) ∨
     (t.cPhase = .txWait ∧ t.cRsp = none ∧ t.log.cEvt = s.log.cEvt)) ∧
    (o.buf.length = o.len.toNat → o.buf.length ≤ s.cfg.bufMax → s.cfg.maxPayload < o.buf.length →
      t.cPhase = .idle ∧ t.cRsp = some ⟨0x00000006#32, 0#32, []⟩ ∧
      t.log.cEvt = s.log.cEvt ++ [.txOverflow])) ∧
  (∀ (s : State) (m : Move) (ms : List Move), configAdmitted s = true → s.cPhase = .txWait → s.cRsp = none →
    s.sched = m :: ms → m = .chanC ∨ m = .txAccept → ∃ t, step s = .next t ∧
    ((t.cPhase = .idle ∧ (∃ r, t.cRsp = some r) ∧
        (t.log.cEvt = s.log.cEvt ∨ ∃ e, t.log.cEvt = s.log.cEvt ++ [e])) ∨
     (t.cPhase = .txWait ∧ t.cRsp = none ∧ t.log.cEvt = s.log.cEvt)))

/-- R168, R181: with CURSOR_CAP at least MAX_FRAME every frame SEND produces for this board's id is received
from an empty cursor: it is delivered whole, with no event. BOARD_ID is stable, and the order of moves, one byte
a step, is the model's (log entry 7). -/
def Obligations.SentFrameIsReceived : Prop :=
  ∀ (cmd : BitVec 8) (p : List Byte) (s : State) (rest : List Byte) (ms : List Move),
    configAdmitted s = true → s.boardIdAlso = [] → s.rxPend = none → s.cursorIdx = 0 →
    s.cfg.maxFrame ≤ s.cfg.cursorCap → p.length ≤ s.cfg.maxPayload →
    let t := txFrame (BitVec.ofNat 13 s.boardId) cmd p
    s.rx = t ++ rest → s.sched = List.replicate t.length Move.chanR ++ ms →
    ∃ u : State, Host.Core.run Sys2Proof.core t.length s = .next u ∧
      u.rxPend = some ⟨BitVec.ofNat 13 s.boardId, cmd.setWidth 5, BitVec.ofNat 8 p.length, p⟩ ∧
      u.log.rEvt = s.log.rEvt ∧ u.cursorIdx = 0 ∧ u.rx = rest

/-! Frames: what an instruction leaves unchanged. -/

/-- R47, R100, R101, R130, R131, R140, R141, R180: ENCODE, DECODE, CHKSUM, CHKVERIFY and BUILD change the
response alone; PARSE also the count of free draws (log entry 6), and that only while BOARD_ID is not stable;
SEND also channel C's other elements and its event port. No byte of the cursor changes. -/
def Obligations.ChannelCFrame : Prop :=
  ∀ (s t : State) (o : Operands),
    (exec (.encode o) s = .next t ∨ exec (.decode o) s = .next t ∨ exec (.chksum o) s = .next t ∨
      exec (.chkverify o) s = .next t ∨ exec (.build o) s = .next t →
      t = { s with cRsp := t.cRsp } ∧ ∀ a, Memory.read t.cursorBuf a = Memory.read s.cursorBuf a) ∧
    (exec (.parse o) s = .next t →
      t = { s with cRsp := t.cRsp, freeC := t.freeC } ∧ (s.boardIdAlso = [] → t.freeC = s.freeC) ∧
      ∀ a, Memory.read t.cursorBuf a = Memory.read s.cursorBuf a) ∧
    (exec (.send o) s = .next t →
      t = { s with
        cRsp := t.cRsp, cPhase := t.cPhase, cTxframe := t.cTxframe, cTxtimer := t.cTxtimer,
        log := { s.log with cEvt := t.log.cEvt } } ∧
      ∀ a, Memory.read t.cursorBuf a = Memory.read s.cursorBuf a)

/-- R40, R47, R160, R161: RX_DATA changes the cursor and channel R's event port alone, and the one byte it
stores is at CURSOR_IDX, only when it is accepted with room; RX_DELIM changes CURSOR_IDX, RX_PEND, the event
port and the count of free draws (log entry 6) alone. Every other byte of the cursor reads as before. -/
def Obligations.ChannelRFrame : Prop :=
  ∀ s t : State,
    (∀ b, exec (.rxData b) s = .next t →
      t = { s with
        cursorBuf := t.cursorBuf, cursorIdx := t.cursorIdx, log := { s.log with rEvt := t.log.rEvt } } ∧
      ∀ a, (a ≠ s.cursorIdx ∨ s.rxPend ≠ none ∨ s.cfg.cursorCap - 1 ≤ s.cursorIdx) →
        Memory.read t.cursorBuf a = Memory.read s.cursorBuf a) ∧
    (exec .rxDelim s = .next t →
      t = { s with
        cursorIdx := t.cursorIdx, rxPend := t.rxPend, freeR := t.freeR,
        log := { s.log with rEvt := t.log.rEvt } } ∧
      (s.boardIdAlso = [] → t.freeR = s.freeR) ∧
      ∀ a, Memory.read t.cursorBuf a = Memory.read s.cursorBuf a)

/-- R103: the code-byte instructions change the codec's working buffer alone (log entry 9); no byte of the
cursor changes. -/
def Obligations.CodeByteFrame : Prop :=
  ∀ (s t : State) (c : Byte),
    (exec .codeTerm s = .next t ∨ exec (.codeRun c) s = .next t ∨ exec .codeFull s = .next t) →
    t = { s with codec := t.codec } ∧ ∀ a, Memory.read t.cursorBuf a = Memory.read s.cursorBuf a

/-! The whole machine. -/

/-- R20, R51: a channel-C operation and a channel-R step give the same result in either order. -/
def Obligations.ChannelsCommute : Prop :=
  ∀ (i j : Instr) (s : State), isChanC i = true → isChanR j = true →
    andThen (exec i s) (exec j) = andThen (exec j s) (exec i)

/-- R32, R46: the answer of ENCODE, DECODE, CHKSUM, CHKVERIFY and BUILD depends on the request and the
parameters alone, and that of PARSE also on BOARD_ID, whatever came before. -/
def Obligations.AnswersDependOnRequestOnly : Prop :=
  ∀ (s t : State) (o : Operands), readyC s = true → readyC t = true → s.cfg = t.cfg →
    (∀ i ∈ [Instr.encode o, .decode o, .chksum o, .chkverify o, .build o],
      ∃ s' t' : State, exec i s = .next s' ∧ exec i t = .next t' ∧ s'.cRsp = t'.cRsp ∧ s'.cRsp ≠ none) ∧
    (s.boardIdAlso = [] → t.boardIdAlso = [] → s.boardId = t.boardId →
      ∃ s' t' : State, exec (.parse o) s = .next s' ∧ exec (.parse o) t = .next t' ∧ s'.cRsp = t'.cRsp ∧
        s'.cRsp ≠ none)

/-- R203: which instructions emit events: SEND alone on `c_evt`, RX_DATA and RX_DELIM alone on `r_evt`, at
most one each. -/
def Obligations.EventsFromPipelineStepsOnly : Prop :=
  ∀ (i : Instr) (s t : State), exec i s = .next t →
    ((∀ o, i ≠ .send o) → t.log.cEvt = s.log.cEvt) ∧
    (isChanR i = false → t.log.rEvt = s.log.rEvt) ∧
    (t.log.cEvt = s.log.cEvt ∨ t.log.cEvt = s.log.cEvt ++ [.txOverflow]) ∧
    (t.log.rEvt = s.log.rEvt ∨ ∃ e, t.log.rEvt = s.log.rEvt ++ [e])

/-- R48, R49, R50, R202: what the ports hand over is only added to, one item a step at most, in order: a
message is the one RX_PEND held, a frame the one offered, a response the one pending, each then gone from
SBPF; inputs are taken oldest first, one a step at most. The records and the waiting inputs are the model's own fields
(log entry 8). -/
def Obligations.PortsKeepOrder : Prop :=
  ∀ s t : State, step s = .next t →
    (t.log.msg = s.log.msg ∨ ∃ m, s.rxPend = some m ∧ t.log.msg = s.log.msg ++ [m] ∧ t.rxPend = none) ∧
    (t.log.tx = s.log.tx ∨ (s.cPhase = .txWait ∧ t.log.tx = s.log.tx ++ [s.cTxframe] ∧ t.cPhase = .idle)) ∧
    (t.log.rsp = s.log.rsp ∨ ∃ r, s.cRsp = some r ∧ t.log.rsp = s.log.rsp ++ [r] ∧ t.cRsp = none) ∧
    (t.log.cEvt = s.log.cEvt ∨ ∃ e, t.log.cEvt = s.log.cEvt ++ [e]) ∧
    (t.log.rEvt = s.log.rEvt ∨ ∃ e, t.log.rEvt = s.log.rEvt ++ [e]) ∧
    (t.rx = s.rx ∨ ∃ b, s.rx = b :: t.rx) ∧ (t.cReq = s.cReq ∨ ∃ r, s.cReq = r :: t.cReq)

/-- R166, R220, R48: the consumer takes the message or the response offered, and it is gone from SBPF. -/
def Obligations.ItemsTakenOnce : Prop :=
  ∀ (s : State) (ms : List Move), configAdmitted s = true →
    (∀ m, s.rxPend = some m → s.sched = .msgTake :: ms → step s = .next { s with
      sched := ms, rxPend := none, log := { s.log with msg := s.log.msg ++ [m] } }) ∧
    (∀ r, s.cRsp = some r → s.sched = .rspTake :: ms → step s = .next { s with
      sched := ms, cRsp := none, log := { s.log with rsp := s.log.rsp ++ [r] } })

/-- R7: exactly the configurations that are not admitted are refused as such. That the further values BOARD_ID
holds are bounded too is the model's (log entry 6). -/
def Obligations.OnlyAdmittedConfigurationsRun : Prop :=
  ∀ s : State, step s ≠ .refused .configNotAdmitted ↔
    (s.cfg.maxPayload ≤ 255 ∧ s.cfg.maxPayload + 6 + (s.cfg.maxPayload + 3) / 254 ≤ s.cfg.maxFrame ∧
      2 ≤ s.cfg.cursorCap ∧ s.cfg.maxFrame ≤ s.cfg.bufMax ∧ s.cfg.maxPayload + 4 ≤ s.cfg.bufMax ∧
      s.cfg.bufMax ≤ 65000 ∧ s.boardId ≤ 2047 ∧ ∀ v ∈ s.boardIdAlso, v ≤ 2047)

/-- R30: the values the spec gives for reset. -/
def Obligations.ResetValues : Prop :=
  State.reset.rxState = .accumulating ∧ State.reset.cursorIdx = 0 ∧ State.reset.rxPend = none ∧
    State.reset.cPhase = .idle ∧ State.reset.cRsp = none

/-- R240, R242: reset in any state gives every element its reset value and abandons what was in progress,
with no response, no event and nothing handed over; the parameters, BOARD_ID and what was already handed over
stay. A request or byte whose operation is cut off is gone, and every other input keeps waiting. Reset as one
move that names the operations it cuts off is the model's choice (log entry 17). -/
def Obligations.ResetAbandonsOperations : Prop :=
  ∀ (s : State) (midC midR : Bool) (ms : List Move), configAdmitted s = true →
    s.sched = .rst midC midR :: ms →
    ∃ t, step s = .next t ∧ t.rxState = .accumulating ∧ t.cursorIdx = 0 ∧ t.rxPend = none ∧
      t.cPhase = .idle ∧ t.cRsp = none ∧ t.cfg = s.cfg ∧ t.boardId = s.boardId ∧
      t.boardIdAlso = s.boardIdAlso ∧ t.log = s.log ∧ t.sched = ms ∧
      t.cReq = (if midC = true ∧ readyC s = true then s.cReq.tail else s.cReq) ∧
      t.rx = (if midR = true ∧ readyR s = true then s.rx.tail else s.rx)

/-- R23, R26, R30: the elements the spec leaves unspecified are never read: two states that agree on
everything else step alike, and still agree. -/
def Obligations.UnspecifiedStateUnread : Prop :=
  ∀ s t : State, SameSpecified s t → SameOutcome (step s) (step t)

/-- R24, R40, R63, R69, R76: the invariant holds at reset. -/
def Obligations.InvariantAtReset : Prop := Inv State.reset

/-- R24, R40, R63, R69, R76: every step keeps the invariant. -/
def Obligations.StepKeepsInvariant : Prop :=
  ∀ s t : State, Inv s → step s = .next t → Inv t

/-- R200: no error stops a channel: in an admitted configuration, from a state that meets the invariant and
with only requests on `c_req`, every step answers a next state. -/
def Obligations.StepNeverStops : Prop :=
  ∀ s : State, configAdmitted s = true → Inv s → RequestsComplete s → ∃ t, step s = .next t
end

