-- ==== Sys2Proof/Laws/Checksum.lean ====
section
/-! SUPPORT. The checksum over lists (41_checksum.md rule R132). -/

namespace Sys2Proof.Machine

theorem chk_foldl (l : List Byte) : ∀ x : Byte, l.foldl (fun x b => x ^^^ b) x = x ^^^ chk l := by
  induction l with
  | nil => intro x; simp [chk]
  | cons b l ih =>
    intro x
    have h := ih b
    simp only [chk, List.foldl_cons, BitVec.zero_xor] at h ⊢
    rw [ih, h, BitVec.xor_assoc]
    rfl

@[simp] theorem chk_nil : chk [] = 0x00#8 := rfl

@[simp] theorem chk_cons (b : Byte) (l : List Byte) : chk (b :: l) = b ^^^ chk l := by
  simpa [chk] using chk_foldl l b

@[simp] theorem chk_append (l m : List Byte) : chk (l ++ m) = chk l ^^^ chk m := by
  induction l with
  | nil => simp
  | cons b l ih => simp [ih, BitVec.xor_assoc]

end Sys2Proof.Machine
end

