-- ==== Sys2Proof/Laws/Codec.lean ====
section
/-! SUPPORT. The frame codec in forms that are handier in proofs: the encoder block by block, and the
decoder's loop run until it stops (40_frame_codec.md rules R102, R103). -/

namespace Sys2Proof.Machine

/-! The encoder. -/

/-- The rest of an encoding, with the literals `lits` copied since the pending code byte. -/
def encodeBlocks : List Byte → List Byte → List Byte
  | lits, [] => BitVec.ofNat 8 (lits.length + 1) :: lits
  | lits, b :: x =>
    if b = 0x00#8 then BitVec.ofNat 8 (lits.length + 1) :: lits ++ encodeBlocks [] x
    else if lits.length + 1 = 254 then
      0xFF#8 :: lits ++ [b] ++ (if x = [] then [] else encodeBlocks [] x)
    else encodeBlocks (lits ++ [b]) x

/-- R102's variables with the literals `lits` after the pending code byte, behind the finished part
`done`. -/
def EncWork.pending (done lits : List Byte) : EncWork :=
  { out := done ++ 0x00#8 :: lits, pos := some done.length, code := lits.length + 1 }

@[simp] theorem writeCode_pending (done lits : List Byte) :
    writeCode (EncWork.pending done lits) = done ++ BitVec.ofNat 8 (lits.length + 1) :: lits := by
  simp [writeCode, EncWork.pending]

theorem encodeStep_zero (done lits : List Byte) (last : Bool) :
    encodeBreak 0x00#8 last (encodeLiteral 0x00#8 (EncWork.pending done lits)) =
      EncWork.pending (done ++ BitVec.ofNat 8 (lits.length + 1) :: lits) [] := by
  have h : encodeLiteral 0x00#8 (EncWork.pending done lits) = EncWork.pending done lits := by
    simp [encodeLiteral]
  simp only [h, encodeBreak, true_or, if_true, writeCode_pending]
  simp [EncWork.pending]

theorem encodeLiteral_pending {b : Byte} (hb : b ≠ 0x00#8) (done lits : List Byte) :
    encodeLiteral b (EncWork.pending done lits) = EncWork.pending done (lits ++ [b]) := by
  simp [encodeLiteral, hb, EncWork.pending]

theorem encodeBreak_run {b : Byte} (hb : b ≠ 0x00#8) {lits : List Byte} (h : lits.length + 1 ≠ 255)
    (done : List Byte) (last : Bool) :
    encodeBreak b last (EncWork.pending done lits) = EncWork.pending done lits := by
  have : (EncWork.pending done lits).code ≠ 0xFF := h
  simp [encodeBreak, hb, this]

theorem encodeBreak_full {b : Byte} (hb : b ≠ 0x00#8) {lits : List Byte} (h : lits.length + 1 = 255)
    (done : List Byte) :
    encodeBreak b false (EncWork.pending done lits) = EncWork.pending (done ++ 0xFF#8 :: lits) [] := by
  have hc : (EncWork.pending done lits).code = 0xFF := h
  have hw := writeCode_pending done lits
  rw [h] at hw
  simp only [encodeBreak, hb, hc, false_or, if_true, hw]
  simp [EncWork.pending]

theorem encodeBreak_full_last {b : Byte} (hb : b ≠ 0x00#8) {lits : List Byte} (h : lits.length + 1 = 255)
    (done : List Byte) :
    writeCode (encodeBreak b true (EncWork.pending done lits)) = done ++ 0xFF#8 :: lits := by
  have hc : (EncWork.pending done lits).code = 0xFF := h
  have hw := writeCode_pending done lits
  rw [h] at hw
  simp only [encodeBreak, hb, hc, false_or, if_true, hw]
  simp [writeCode]

theorem encodeLoop_pending (x : List Byte) : ∀ done lits : List Byte, lits.length < 254 →
    writeCode (encodeLoop x (EncWork.pending done lits)) = done ++ encodeBlocks lits x := by
  induction x with
  | nil => intro done lits _; simp [encodeLoop, encodeBlocks]
  | cons b x ih =>
    intro done lits hl
    by_cases hb : b = 0x00#8
    · subst hb
      simp [encodeLoop, encodeBlocks, encodeStep_zero, ih]
    · simp only [encodeLoop, encodeLiteral_pending hb, encodeBlocks, hb, if_false]
      by_cases hf : lits.length + 1 = 254
      · have hf' : (lits ++ [b]).length + 1 = 255 := by simp [hf]
        cases x with
        | nil => simp [encodeLoop, encodeBreak_full_last hb hf', hf]
        | cons c x =>
          simp only [List.isEmpty_cons, encodeBreak_full hb hf', hf, if_true]
          simp [ih]
      · have hf' : (lits ++ [b]).length + 1 ≠ 255 := by simp; omega
        rw [encodeBreak_run hb hf', ih _ _ (by simp; omega)]
        simp [hf]

/-- R102: cobs_encode block by block. -/
theorem cobsEncode_eq_blocks (x : List Byte) : cobsEncode x = encodeBlocks [] x := by
  simpa [cobsEncode, EncWork.start, EncWork.pending] using encodeLoop_pending x [] [] (by simp)

/-! The decoder. -/

/-- Nothing is left to decode. -/
abbrev DecWork.Stopped (w : DecWork) : Prop := w.term = true ∨ w.rest = []

theorem decodeStep_of_stopped {w : DecWork} (h : w.Stopped) : decodeStep w = w := by
  unfold decodeStep
  rcases h with h | h <;> simp [h]

theorem decodeLoop_of_stopped {w : DecWork} (h : w.Stopped) (n : Nat) : decodeLoop n w = w := by
  induction n with
  | zero => rfl
  | succ n ih => rw [decodeLoop, decodeStep_of_stopped h, ih]

/-- R112. -/
theorem decodeBlock_zero (w : DecWork) : decodeBlock 0x00#8 w = { w with term := true } := by
  simp [decodeBlock, blockTerm]

/-- R110, R111: the blocks of both classes are one function of the code byte. -/
theorem decodeBlock_of_ne {c : Byte} (hc : c ≠ 0x00#8) (w : DecWork) : decodeBlock c w = blockLiterals c w := by
  unfold decodeBlock blockFull blockRun
  rw [if_neg hc]
  split
  · subst_vars; rfl
  · rfl

theorem decodeBlock_rest_length (c : Byte) (w : DecWork) :
    (decodeBlock c w).rest.length ≤ w.rest.length := by
  unfold decodeBlock blockTerm blockFull blockRun blockLiterals
  split
  · exact le_rfl
  · split <;> simp

theorem decodeStep_cons {w : DecWork} {c : Byte} {tl : List Byte} (ht : w.term = false) (hr : w.rest = c :: tl) :
    decodeStep w = decodeBlock c { w with rest := tl } := by
  simp [decodeStep, ht, hr]

/-- Enough iterations are enough: the loop's result does not depend on their number. -/
theorem decodeLoop_enough (n : Nat) : ∀ (w : DecWork) (m : Nat), w.rest.length ≤ n → w.rest.length ≤ m →
    decodeLoop n w = decodeLoop m w := by
  induction n with
  | zero =>
    intro w m h _
    have : w.rest = [] := by simpa using h
    rw [decodeLoop_of_stopped (.inr this), decodeLoop_of_stopped (.inr this)]
  | succ n ih =>
    intro w m hn hm
    by_cases hs : w.Stopped
    · rw [decodeLoop_of_stopped hs, decodeLoop_of_stopped hs]
    · obtain ⟨ht, hr⟩ := not_or.1 hs
      obtain ⟨c, tl, hr⟩ := List.exists_cons_of_ne_nil hr
      have hlen : (decodeStep w).rest.length ≤ tl.length := by
        rw [decodeStep_cons (by simpa using ht) hr]
        exact decodeBlock_rest_length c _
      rw [hr, List.length_cons] at hn hm
      obtain ⟨m, rfl⟩ : ∃ k, m = k + 1 := ⟨m - 1, by omega⟩
      rw [decodeLoop, decodeLoop]
      exact ih _ _ (by omega) (by omega)

/-- The loop run to its end. -/
def decodeRun (w : DecWork) : DecWork := decodeLoop w.rest.length w

theorem cobsDecode_eq_run (e : List Byte) : cobsDecode e = decodeResult (decodeRun (DecWork.start e)) := rfl

theorem decodeRun_of_stopped {w : DecWork} (h : w.Stopped) : decodeRun w = w := decodeLoop_of_stopped h _

/-- One block, then the rest of the loop. -/
theorem decodeRun_step (w : DecWork) : decodeRun w = decodeRun (decodeStep w) := by
  by_cases hs : w.Stopped
  · rw [decodeStep_of_stopped hs]
  · obtain ⟨ht, hr⟩ := not_or.1 hs
    obtain ⟨c, tl, hr⟩ := List.exists_cons_of_ne_nil hr
    have hlen : (decodeStep w).rest.length ≤ tl.length := by
      rw [decodeStep_cons (by simpa using ht) hr]
      exact decodeBlock_rest_length c _
    have h : decodeRun w = decodeLoop tl.length (decodeStep w) := by
      simp [decodeRun, hr, decodeLoop]
    rw [h]
    exact decodeLoop_enough _ _ _ hlen le_rfl

/-- R103: a block whose literals are all there. -/
theorem decodeStep_block {c : Byte} (hc : c ≠ 0x00#8) {lits : List Byte} (hl : lits.length = c.toNat - 1)
    (tl out : List Byte) (prev : Byte) (trunc : Bool) :
    decodeStep { rest := c :: lits ++ tl, out := out, prev := prev, term := false, trunc := trunc } =
      { rest := tl, out := out ++ (if prev ≠ 0xFF#8 then [0x00#8] else []) ++ lits, prev := c, term := false,
        trunc := false } := by
  rw [decodeStep_cons (c := c) (tl := lits ++ tl) rfl rfl]
  have hk : min (c.toNat - 1) (lits ++ tl).length = lits.length := by simp; omega
  simp only [decodeBlock_of_ne hc, blockLiterals]
  rw [hk]
  simp [hl]

end Sys2Proof.Machine
end

