-- ==== Sys2Proof/Laws/Memory.lean ====
section
/-! SUPPORT. The cursor buffer as memory: reading what was written, leaving every other index alone, and
keeping the canonical form (20_memory.md rule R40). -/

namespace Sys2Proof.Machine

@[simp] theorem Memory.read_nil (i : Nat) : Memory.read [] i = Memory.blank := rfl

theorem Memory.read_cons (a : Nat) (v : Byte) (m : Memory) (i : Nat) :
    Memory.read ((a, v) :: m) i = if a = i then v else Memory.read m i := rfl

/-- The canonical form in terms of the whole list. -/
theorem Memory.wf_iff (m : Memory) :
    Memory.wf m = true ↔ m.Pairwise (fun c d => c.1 < d.1) ∧ ∀ c ∈ m, c.2 ≠ Memory.blank := by
  induction m with
  | nil => simp [Memory.wf]
  | cons c m ih =>
    obtain ⟨a, v⟩ := c
    cases m with
    | nil => simp [Memory.wf]
    | cons d m =>
      obtain ⟨b, w⟩ := d
      simp only [Memory.wf, Bool.and_eq_true, decide_eq_true_eq, ih, List.pairwise_cons, List.mem_cons,
        forall_eq_or_imp]
      constructor
      · rintro ⟨⟨hv, hab⟩, ⟨hb, hp⟩, hw, hm⟩
        exact ⟨⟨⟨hab, fun x hx => lt_trans hab (hb x hx)⟩, hb, hp⟩, hv, hw, hm⟩
      · rintro ⟨⟨⟨hab, -⟩, hb, hp⟩, hv, hw, hm⟩
        exact ⟨⟨hv, hab⟩, ⟨hb, hp⟩, hw, hm⟩

/-- An index that is listed nowhere reads as blank. -/
theorem Memory.read_of_not_mem {m : Memory} {i : Nat} (h : ∀ c ∈ m, c.1 ≠ i) :
    Memory.read m i = Memory.blank := by
  induction m with
  | nil => rfl
  | cons c m ih =>
    obtain ⟨a, v⟩ := c
    have ha : a ≠ i := h (a, v) (by simp)
    simp [Memory.read_cons, ha, ih fun d hd => h d (by simp [hd])]

theorem Memory.read_insert (m : Memory) (i : Nat) (v : Byte) (j : Nat) :
    Memory.read (Memory.insert m i v) j = if i = j then v else Memory.read m j := by
  induction m with
  | nil => simp [Memory.insert, Memory.read_cons]
  | cons c m ih =>
    obtain ⟨a, w⟩ := c
    simp only [Memory.insert]
    split
    · simp [Memory.read_cons]
    · split
      · subst_vars
        by_cases h : a = j <;> simp [Memory.read_cons, h]
      · rename_i _ hne
        simp only [Memory.read_cons, ih]
        by_cases haj : a = j
        · have hij : i ≠ j := fun hij => hne (haj.trans hij.symm)
          simp [haj, hij]
        · simp [haj]

theorem Memory.mem_of_mem_erase {m : Memory} {i : Nat} {c : Host.Cell} (h : c ∈ Memory.erase m i) : c ∈ m := by
  induction m with
  | nil => exact h
  | cons d m ih =>
    obtain ⟨a, w⟩ := d
    simp only [Memory.erase] at h
    split at h
    · exact List.mem_cons_of_mem _ h
    · rcases List.mem_cons.1 h with h | h
      · exact h ▸ List.mem_cons_self
      · exact List.mem_cons_of_mem _ (ih h)

theorem Memory.mem_of_mem_insert {m : Memory} {i : Nat} {v : Byte} {c : Host.Cell}
    (h : c ∈ Memory.insert m i v) : c = (i, v) ∨ c ∈ m := by
  induction m with
  | nil => simpa [Memory.insert] using h
  | cons d m ih =>
    obtain ⟨a, w⟩ := d
    simp only [Memory.insert] at h
    split at h
    · simpa using h
    · split at h
      · rcases List.mem_cons.1 h with h | h
        · exact .inl h
        · exact .inr (List.mem_cons_of_mem _ h)
      · rcases List.mem_cons.1 h with h | h
        · exact .inr (h ▸ List.mem_cons_self)
        · exact (ih h).imp_right (List.mem_cons_of_mem _)

theorem Memory.read_erase {m : Memory} (hm : m.Pairwise fun c d => c.1 < d.1) (i j : Nat) :
    Memory.read (Memory.erase m i) j = if i = j then Memory.blank else Memory.read m j := by
  induction m with
  | nil => simp [Memory.erase]
  | cons c m ih =>
    obtain ⟨a, w⟩ := c
    obtain ⟨ha, hm⟩ := List.pairwise_cons.1 hm
    simp only [Memory.erase]
    split
    · subst_vars
      by_cases h : a = j
      · subst h
        simpa using Memory.read_of_not_mem fun c hc => (ha c hc).ne'
      · simp [Memory.read_cons, h]
    · rename_i hne
      simp only [Memory.read_cons, ih hm]
      by_cases haj : a = j
      · have hij : i ≠ j := fun hij => hne (haj.trans hij.symm)
        simp [haj, hij]
      · simp [haj]

/-- Reading after a write: the byte written at its index, every other index as before. -/
theorem Memory.read_write {m : Memory} (hm : Memory.wf m = true) (i : Nat) (v : Byte) (j : Nat) :
    Memory.read (Memory.write m i v) j = if i = j then v else Memory.read m j := by
  unfold Memory.write
  split
  · subst_vars
    exact Memory.read_erase ((Memory.wf_iff m).1 hm).1 i j
  · exact Memory.read_insert m i v j

/-- The same with no premise on the form, for a byte that is not blank. -/
theorem Memory.read_write_of_ne {v : Byte} (hv : v ≠ Memory.blank) (m : Memory) (i j : Nat) :
    Memory.read (Memory.write m i v) j = if i = j then v else Memory.read m j := by
  simp [Memory.write, hv, Memory.read_insert]

/-- A write leaves every other index alone, in any memory. -/
theorem Memory.read_write_other {i j : Nat} (h : i ≠ j) (m : Memory) (v : Byte) :
    Memory.read (Memory.write m i v) j = Memory.read m j := by
  unfold Memory.write
  split
  · induction m with
    | nil => rfl
    | cons c m ih =>
      obtain ⟨a, w⟩ := c
      simp only [Memory.erase]
      split
      · subst_vars
        simp [Memory.read_cons, h]
      · simp [Memory.read_cons, ih]
  · simp [Memory.read_insert, h]

theorem Memory.erase_wf {m : Memory} (hm : Memory.wf m = true) (i : Nat) :
    Memory.wf (Memory.erase m i) = true := by
  rw [Memory.wf_iff] at hm ⊢
  obtain ⟨hp, hb⟩ := hm
  refine ⟨?_, fun c hc => hb c (Memory.mem_of_mem_erase hc)⟩
  clear hb
  induction m with
  | nil => exact .nil
  | cons c m ih =>
    obtain ⟨a, w⟩ := c
    obtain ⟨ha, hp⟩ := List.pairwise_cons.1 hp
    simp only [Memory.erase]
    split
    · exact hp
    · exact .cons (fun c hc => ha c (Memory.mem_of_mem_erase hc)) (ih hp)

theorem Memory.insert_wf {m : Memory} (hm : Memory.wf m = true) (i : Nat) {v : Byte} (hv : v ≠ Memory.blank) :
    Memory.wf (Memory.insert m i v) = true := by
  rw [Memory.wf_iff] at hm ⊢
  obtain ⟨hp, hb⟩ := hm
  refine ⟨?_, fun c hc => ?_⟩
  · clear hb
    induction m with
    | nil => simp [Memory.insert]
    | cons c m ih =>
      obtain ⟨a, w⟩ := c
      obtain ⟨ha, hp⟩ := List.pairwise_cons.1 hp
      simp only [Memory.insert]
      split
      · rename_i hi
        refine .cons (fun c hc => ?_) (.cons ha hp)
        rcases List.mem_cons.1 hc with rfl | hc
        · exact hi
        · exact lt_trans hi (ha c hc)
      · split
        · subst_vars
          exact .cons ha hp
        · refine .cons (fun c hc => ?_) (ih hp)
          rcases Memory.mem_of_mem_insert hc with rfl | hc
          · simp only
            omega
          · exact ha c hc
  · rcases Memory.mem_of_mem_insert hc with rfl | hc
    · exact hv
    · exact hb c hc

/-- A write keeps the canonical form. -/
theorem Memory.write_wf {m : Memory} (hm : Memory.wf m = true) (i : Nat) (v : Byte) :
    Memory.wf (Memory.write m i v) = true := by
  unfold Memory.write
  split
  · exact Memory.erase_wf hm i
  · rename_i hv
    exact Memory.insert_wf hm i hv

/-- What a write lists: the index written, or what was listed before. -/
theorem Memory.mem_write {m : Memory} {i : Nat} {v : Byte} {c : Host.Cell} (h : c ∈ Memory.write m i v) :
    c.1 = i ∨ c ∈ m := by
  unfold Memory.write at h
  split at h
  · exact .inr (Memory.mem_of_mem_erase h)
  · exact (Memory.mem_of_mem_insert h).imp_left fun e => by rw [e]

theorem State.reset_cursorBuf_wf : Memory.wf State.reset.cursorBuf = true := rfl

end Sys2Proof.Machine
end

