-- ==== Sys2Proof/Laws/State.lean ====
section
/-! SUPPORT. What each named update of the state writes and what it leaves: one lemma per field per update. -/

namespace Sys2Proof.Machine

/-! respond -/

@[simp] theorem respond_cfg (f : RspFields) (s : State) :
    (respond f s).cfg = s.cfg := rfl
@[simp] theorem respond_boardId (f : RspFields) (s : State) :
    (respond f s).boardId = s.boardId := rfl
@[simp] theorem respond_boardIdAlso (f : RspFields) (s : State) :
    (respond f s).boardIdAlso = s.boardIdAlso := rfl
@[simp] theorem respond_rxState (f : RspFields) (s : State) :
    (respond f s).rxState = s.rxState := rfl
@[simp] theorem respond_cursorBuf (f : RspFields) (s : State) :
    (respond f s).cursorBuf = s.cursorBuf := rfl
@[simp] theorem respond_cursorIdx (f : RspFields) (s : State) :
    (respond f s).cursorIdx = s.cursorIdx := rfl
@[simp] theorem respond_rxPend (f : RspFields) (s : State) :
    (respond f s).rxPend = s.rxPend := rfl
@[simp] theorem respond_cPhase (f : RspFields) (s : State) :
    (respond f s).cPhase = s.cPhase := rfl
@[simp] theorem respond_cTxframe (f : RspFields) (s : State) :
    (respond f s).cTxframe = s.cTxframe := rfl
@[simp] theorem respond_cTxtimer (f : RspFields) (s : State) :
    (respond f s).cTxtimer = s.cTxtimer := rfl
@[simp] theorem respond_cRsp (f : RspFields) (s : State) :
    (respond f s).cRsp = some (packRsp f) := rfl
@[simp] theorem respond_codec (f : RspFields) (s : State) :
    (respond f s).codec = s.codec := rfl
@[simp] theorem respond_cReq (f : RspFields) (s : State) :
    (respond f s).cReq = s.cReq := rfl
@[simp] theorem respond_rx (f : RspFields) (s : State) :
    (respond f s).rx = s.rx := rfl
@[simp] theorem respond_sched (f : RspFields) (s : State) :
    (respond f s).sched = s.sched := rfl
@[simp] theorem respond_log (f : RspFields) (s : State) :
    (respond f s).log = s.log := rfl
@[simp] theorem respond_freeC (f : RspFields) (s : State) :
    (respond f s).freeC = s.freeC := rfl
@[simp] theorem respond_freeR (f : RspFields) (s : State) :
    (respond f s).freeR = s.freeR := rfl

/-! emitC -/

@[simp] theorem emitC_cfg (e : Event) (s : State) :
    (emitC e s).cfg = s.cfg := rfl
@[simp] theorem emitC_boardId (e : Event) (s : State) :
    (emitC e s).boardId = s.boardId := rfl
@[simp] theorem emitC_boardIdAlso (e : Event) (s : State) :
    (emitC e s).boardIdAlso = s.boardIdAlso := rfl
@[simp] theorem emitC_rxState (e : Event) (s : State) :
    (emitC e s).rxState = s.rxState := rfl
@[simp] theorem emitC_cursorBuf (e : Event) (s : State) :
    (emitC e s).cursorBuf = s.cursorBuf := rfl
@[simp] theorem emitC_cursorIdx (e : Event) (s : State) :
    (emitC e s).cursorIdx = s.cursorIdx := rfl
@[simp] theorem emitC_rxPend (e : Event) (s : State) :
    (emitC e s).rxPend = s.rxPend := rfl
@[simp] theorem emitC_cPhase (e : Event) (s : State) :
    (emitC e s).cPhase = s.cPhase := rfl
@[simp] theorem emitC_cTxframe (e : Event) (s : State) :
    (emitC e s).cTxframe = s.cTxframe := rfl
@[simp] theorem emitC_cTxtimer (e : Event) (s : State) :
    (emitC e s).cTxtimer = s.cTxtimer := rfl
@[simp] theorem emitC_cRsp (e : Event) (s : State) :
    (emitC e s).cRsp = s.cRsp := rfl
@[simp] theorem emitC_codec (e : Event) (s : State) :
    (emitC e s).codec = s.codec := rfl
@[simp] theorem emitC_cReq (e : Event) (s : State) :
    (emitC e s).cReq = s.cReq := rfl
@[simp] theorem emitC_rx (e : Event) (s : State) :
    (emitC e s).rx = s.rx := rfl
@[simp] theorem emitC_sched (e : Event) (s : State) :
    (emitC e s).sched = s.sched := rfl
@[simp] theorem emitC_log (e : Event) (s : State) :
    (emitC e s).log = { s.log with cEvt := s.log.cEvt ++ [e] } := rfl
@[simp] theorem emitC_freeC (e : Event) (s : State) :
    (emitC e s).freeC = s.freeC := rfl
@[simp] theorem emitC_freeR (e : Event) (s : State) :
    (emitC e s).freeR = s.freeR := rfl

/-! emitR -/

@[simp] theorem emitR_cfg (e : Event) (s : State) :
    (emitR e s).cfg = s.cfg := rfl
@[simp] theorem emitR_boardId (e : Event) (s : State) :
    (emitR e s).boardId = s.boardId := rfl
@[simp] theorem emitR_boardIdAlso (e : Event) (s : State) :
    (emitR e s).boardIdAlso = s.boardIdAlso := rfl
@[simp] theorem emitR_rxState (e : Event) (s : State) :
    (emitR e s).rxState = s.rxState := rfl
@[simp] theorem emitR_cursorBuf (e : Event) (s : State) :
    (emitR e s).cursorBuf = s.cursorBuf := rfl
@[simp] theorem emitR_cursorIdx (e : Event) (s : State) :
    (emitR e s).cursorIdx = s.cursorIdx := rfl
@[simp] theorem emitR_rxPend (e : Event) (s : State) :
    (emitR e s).rxPend = s.rxPend := rfl
@[simp] theorem emitR_cPhase (e : Event) (s : State) :
    (emitR e s).cPhase = s.cPhase := rfl
@[simp] theorem emitR_cTxframe (e : Event) (s : State) :
    (emitR e s).cTxframe = s.cTxframe := rfl
@[simp] theorem emitR_cTxtimer (e : Event) (s : State) :
    (emitR e s).cTxtimer = s.cTxtimer := rfl
@[simp] theorem emitR_cRsp (e : Event) (s : State) :
    (emitR e s).cRsp = s.cRsp := rfl
@[simp] theorem emitR_codec (e : Event) (s : State) :
    (emitR e s).codec = s.codec := rfl
@[simp] theorem emitR_cReq (e : Event) (s : State) :
    (emitR e s).cReq = s.cReq := rfl
@[simp] theorem emitR_rx (e : Event) (s : State) :
    (emitR e s).rx = s.rx := rfl
@[simp] theorem emitR_sched (e : Event) (s : State) :
    (emitR e s).sched = s.sched := rfl
@[simp] theorem emitR_log (e : Event) (s : State) :
    (emitR e s).log = { s.log with rEvt := s.log.rEvt ++ [e] } := rfl
@[simp] theorem emitR_freeC (e : Event) (s : State) :
    (emitR e s).freeC = s.freeC := rfl
@[simp] theorem emitR_freeR (e : Event) (s : State) :
    (emitR e s).freeR = s.freeR := rfl

/-! operandError -/

@[simp] theorem operandError_cfg (s : State) :
    (operandError s).cfg = s.cfg := rfl
@[simp] theorem operandError_boardId (s : State) :
    (operandError s).boardId = s.boardId := rfl
@[simp] theorem operandError_boardIdAlso (s : State) :
    (operandError s).boardIdAlso = s.boardIdAlso := rfl
@[simp] theorem operandError_rxState (s : State) :
    (operandError s).rxState = s.rxState := rfl
@[simp] theorem operandError_cursorBuf (s : State) :
    (operandError s).cursorBuf = s.cursorBuf := rfl
@[simp] theorem operandError_cursorIdx (s : State) :
    (operandError s).cursorIdx = s.cursorIdx := rfl
@[simp] theorem operandError_rxPend (s : State) :
    (operandError s).rxPend = s.rxPend := rfl
@[simp] theorem operandError_cPhase (s : State) :
    (operandError s).cPhase = s.cPhase := rfl
@[simp] theorem operandError_cTxframe (s : State) :
    (operandError s).cTxframe = s.cTxframe := rfl
@[simp] theorem operandError_cTxtimer (s : State) :
    (operandError s).cTxtimer = s.cTxtimer := rfl
@[simp] theorem operandError_cRsp (s : State) :
    (operandError s).cRsp = some (packRsp { status := .operandError }) := rfl
@[simp] theorem operandError_codec (s : State) :
    (operandError s).codec = s.codec := rfl
@[simp] theorem operandError_cReq (s : State) :
    (operandError s).cReq = s.cReq := rfl
@[simp] theorem operandError_rx (s : State) :
    (operandError s).rx = s.rx := rfl
@[simp] theorem operandError_sched (s : State) :
    (operandError s).sched = s.sched := rfl
@[simp] theorem operandError_log (s : State) :
    (operandError s).log = s.log := rfl
@[simp] theorem operandError_freeC (s : State) :
    (operandError s).freeC = s.freeC := rfl
@[simp] theorem operandError_freeR (s : State) :
    (operandError s).freeR = s.freeR := rfl

/-! illegalRequest -/

@[simp] theorem illegalRequest_cfg (s : State) :
    (illegalRequest s).cfg = s.cfg := rfl
@[simp] theorem illegalRequest_boardId (s : State) :
    (illegalRequest s).boardId = s.boardId := rfl
@[simp] theorem illegalRequest_boardIdAlso (s : State) :
    (illegalRequest s).boardIdAlso = s.boardIdAlso := rfl
@[simp] theorem illegalRequest_rxState (s : State) :
    (illegalRequest s).rxState = s.rxState := rfl
@[simp] theorem illegalRequest_cursorBuf (s : State) :
    (illegalRequest s).cursorBuf = s.cursorBuf := rfl
@[simp] theorem illegalRequest_cursorIdx (s : State) :
    (illegalRequest s).cursorIdx = s.cursorIdx := rfl
@[simp] theorem illegalRequest_rxPend (s : State) :
    (illegalRequest s).rxPend = s.rxPend := rfl
@[simp] theorem illegalRequest_cPhase (s : State) :
    (illegalRequest s).cPhase = s.cPhase := rfl
@[simp] theorem illegalRequest_cTxframe (s : State) :
    (illegalRequest s).cTxframe = s.cTxframe := rfl
@[simp] theorem illegalRequest_cTxtimer (s : State) :
    (illegalRequest s).cTxtimer = s.cTxtimer := rfl
@[simp] theorem illegalRequest_cRsp (s : State) :
    (illegalRequest s).cRsp = some (packRsp { status := .illegalOp }) := rfl
@[simp] theorem illegalRequest_codec (s : State) :
    (illegalRequest s).codec = s.codec := rfl
@[simp] theorem illegalRequest_cReq (s : State) :
    (illegalRequest s).cReq = s.cReq := rfl
@[simp] theorem illegalRequest_rx (s : State) :
    (illegalRequest s).rx = s.rx := rfl
@[simp] theorem illegalRequest_sched (s : State) :
    (illegalRequest s).sched = s.sched := rfl
@[simp] theorem illegalRequest_log (s : State) :
    (illegalRequest s).log = s.log := rfl
@[simp] theorem illegalRequest_freeC (s : State) :
    (illegalRequest s).freeC = s.freeC := rfl
@[simp] theorem illegalRequest_freeR (s : State) :
    (illegalRequest s).freeR = s.freeR := rfl

/-! offerFrame -/

@[simp] theorem offerFrame_cfg (t : List Byte) (s : State) :
    (offerFrame t s).cfg = s.cfg := rfl
@[simp] theorem offerFrame_boardId (t : List Byte) (s : State) :
    (offerFrame t s).boardId = s.boardId := rfl
@[simp] theorem offerFrame_boardIdAlso (t : List Byte) (s : State) :
    (offerFrame t s).boardIdAlso = s.boardIdAlso := rfl
@[simp] theorem offerFrame_rxState (t : List Byte) (s : State) :
    (offerFrame t s).rxState = s.rxState := rfl
@[simp] theorem offerFrame_cursorBuf (t : List Byte) (s : State) :
    (offerFrame t s).cursorBuf = s.cursorBuf := rfl
@[simp] theorem offerFrame_cursorIdx (t : List Byte) (s : State) :
    (offerFrame t s).cursorIdx = s.cursorIdx := rfl
@[simp] theorem offerFrame_rxPend (t : List Byte) (s : State) :
    (offerFrame t s).rxPend = s.rxPend := rfl
@[simp] theorem offerFrame_cPhase (t : List Byte) (s : State) :
    (offerFrame t s).cPhase = .txWait := rfl
@[simp] theorem offerFrame_cTxframe (t : List Byte) (s : State) :
    (offerFrame t s).cTxframe = { flen := BitVec.ofNat 16 t.length, bytes := t } := rfl
@[simp] theorem offerFrame_cTxtimer (t : List Byte) (s : State) :
    (offerFrame t s).cTxtimer = 0 := rfl
@[simp] theorem offerFrame_cRsp (t : List Byte) (s : State) :
    (offerFrame t s).cRsp = s.cRsp := rfl
@[simp] theorem offerFrame_codec (t : List Byte) (s : State) :
    (offerFrame t s).codec = s.codec := rfl
@[simp] theorem offerFrame_cReq (t : List Byte) (s : State) :
    (offerFrame t s).cReq = s.cReq := rfl
@[simp] theorem offerFrame_rx (t : List Byte) (s : State) :
    (offerFrame t s).rx = s.rx := rfl
@[simp] theorem offerFrame_sched (t : List Byte) (s : State) :
    (offerFrame t s).sched = s.sched := rfl
@[simp] theorem offerFrame_log (t : List Byte) (s : State) :
    (offerFrame t s).log = s.log := rfl
@[simp] theorem offerFrame_freeC (t : List Byte) (s : State) :
    (offerFrame t s).freeC = s.freeC := rfl
@[simp] theorem offerFrame_freeR (t : List Byte) (s : State) :
    (offerFrame t s).freeR = s.freeR := rfl

/-! txOverflow -/

@[simp] theorem txOverflow_cfg (s : State) :
    (txOverflow s).cfg = s.cfg := rfl
@[simp] theorem txOverflow_boardId (s : State) :
    (txOverflow s).boardId = s.boardId := rfl
@[simp] theorem txOverflow_boardIdAlso (s : State) :
    (txOverflow s).boardIdAlso = s.boardIdAlso := rfl
@[simp] theorem txOverflow_rxState (s : State) :
    (txOverflow s).rxState = s.rxState := rfl
@[simp] theorem txOverflow_cursorBuf (s : State) :
    (txOverflow s).cursorBuf = s.cursorBuf := rfl
@[simp] theorem txOverflow_cursorIdx (s : State) :
    (txOverflow s).cursorIdx = s.cursorIdx := rfl
@[simp] theorem txOverflow_rxPend (s : State) :
    (txOverflow s).rxPend = s.rxPend := rfl
@[simp] theorem txOverflow_cPhase (s : State) :
    (txOverflow s).cPhase = s.cPhase := rfl
@[simp] theorem txOverflow_cTxframe (s : State) :
    (txOverflow s).cTxframe = s.cTxframe := rfl
@[simp] theorem txOverflow_cTxtimer (s : State) :
    (txOverflow s).cTxtimer = s.cTxtimer := rfl
@[simp] theorem txOverflow_cRsp (s : State) :
    (txOverflow s).cRsp = some (packRsp { status := .txOverflow }) := rfl
@[simp] theorem txOverflow_codec (s : State) :
    (txOverflow s).codec = s.codec := rfl
@[simp] theorem txOverflow_cReq (s : State) :
    (txOverflow s).cReq = s.cReq := rfl
@[simp] theorem txOverflow_rx (s : State) :
    (txOverflow s).rx = s.rx := rfl
@[simp] theorem txOverflow_sched (s : State) :
    (txOverflow s).sched = s.sched := rfl
@[simp] theorem txOverflow_log (s : State) :
    (txOverflow s).log = { s.log with cEvt := s.log.cEvt ++ [.txOverflow] } := rfl
@[simp] theorem txOverflow_freeC (s : State) :
    (txOverflow s).freeC = s.freeC := rfl
@[simp] theorem txOverflow_freeR (s : State) :
    (txOverflow s).freeR = s.freeR := rfl

/-! setBoardId -/

@[simp] theorem setBoardId_cfg (v : Nat) (l : List Nat) (s : State) :
    (setBoardId v l s).cfg = s.cfg := rfl
@[simp] theorem setBoardId_boardId (v : Nat) (l : List Nat) (s : State) :
    (setBoardId v l s).boardId = v := rfl
@[simp] theorem setBoardId_boardIdAlso (v : Nat) (l : List Nat) (s : State) :
    (setBoardId v l s).boardIdAlso = l := rfl
@[simp] theorem setBoardId_rxState (v : Nat) (l : List Nat) (s : State) :
    (setBoardId v l s).rxState = s.rxState := rfl
@[simp] theorem setBoardId_cursorBuf (v : Nat) (l : List Nat) (s : State) :
    (setBoardId v l s).cursorBuf = s.cursorBuf := rfl
@[simp] theorem setBoardId_cursorIdx (v : Nat) (l : List Nat) (s : State) :
    (setBoardId v l s).cursorIdx = s.cursorIdx := rfl
@[simp] theorem setBoardId_rxPend (v : Nat) (l : List Nat) (s : State) :
    (setBoardId v l s).rxPend = s.rxPend := rfl
@[simp] theorem setBoardId_cPhase (v : Nat) (l : List Nat) (s : State) :
    (setBoardId v l s).cPhase = s.cPhase := rfl
@[simp] theorem setBoardId_cTxframe (v : Nat) (l : List Nat) (s : State) :
    (setBoardId v l s).cTxframe = s.cTxframe := rfl
@[simp] theorem setBoardId_cTxtimer (v : Nat) (l : List Nat) (s : State) :
    (setBoardId v l s).cTxtimer = s.cTxtimer := rfl
@[simp] theorem setBoardId_cRsp (v : Nat) (l : List Nat) (s : State) :
    (setBoardId v l s).cRsp = s.cRsp := rfl
@[simp] theorem setBoardId_codec (v : Nat) (l : List Nat) (s : State) :
    (setBoardId v l s).codec = s.codec := rfl
@[simp] theorem setBoardId_cReq (v : Nat) (l : List Nat) (s : State) :
    (setBoardId v l s).cReq = s.cReq := rfl
@[simp] theorem setBoardId_rx (v : Nat) (l : List Nat) (s : State) :
    (setBoardId v l s).rx = s.rx := rfl
@[simp] theorem setBoardId_sched (v : Nat) (l : List Nat) (s : State) :
    (setBoardId v l s).sched = s.sched := rfl
@[simp] theorem setBoardId_log (v : Nat) (l : List Nat) (s : State) :
    (setBoardId v l s).log = s.log := rfl
@[simp] theorem setBoardId_freeC (v : Nat) (l : List Nat) (s : State) :
    (setBoardId v l s).freeC = s.freeC := rfl
@[simp] theorem setBoardId_freeR (v : Nat) (l : List Nat) (s : State) :
    (setBoardId v l s).freeR = s.freeR := rfl

/-! abandon -/

@[simp] theorem abandon_cfg (midC midR : Bool) (s : State) :
    (abandon midC midR s).cfg = s.cfg := rfl
@[simp] theorem abandon_boardId (midC midR : Bool) (s : State) :
    (abandon midC midR s).boardId = s.boardId := rfl
@[simp] theorem abandon_boardIdAlso (midC midR : Bool) (s : State) :
    (abandon midC midR s).boardIdAlso = s.boardIdAlso := rfl
@[simp] theorem abandon_rxState (midC midR : Bool) (s : State) :
    (abandon midC midR s).rxState = s.rxState := rfl
@[simp] theorem abandon_cursorBuf (midC midR : Bool) (s : State) :
    (abandon midC midR s).cursorBuf = s.cursorBuf := rfl
@[simp] theorem abandon_cursorIdx (midC midR : Bool) (s : State) :
    (abandon midC midR s).cursorIdx = s.cursorIdx := rfl
@[simp] theorem abandon_rxPend (midC midR : Bool) (s : State) :
    (abandon midC midR s).rxPend = s.rxPend := rfl
@[simp] theorem abandon_cPhase (midC midR : Bool) (s : State) :
    (abandon midC midR s).cPhase = s.cPhase := rfl
@[simp] theorem abandon_cTxframe (midC midR : Bool) (s : State) :
    (abandon midC midR s).cTxframe = s.cTxframe := rfl
@[simp] theorem abandon_cTxtimer (midC midR : Bool) (s : State) :
    (abandon midC midR s).cTxtimer = s.cTxtimer := rfl
@[simp] theorem abandon_cRsp (midC midR : Bool) (s : State) :
    (abandon midC midR s).cRsp = s.cRsp := rfl
@[simp] theorem abandon_codec (midC midR : Bool) (s : State) :
    (abandon midC midR s).codec = s.codec := rfl
@[simp] theorem abandon_sched (midC midR : Bool) (s : State) :
    (abandon midC midR s).sched = s.sched := rfl
@[simp] theorem abandon_log (midC midR : Bool) (s : State) :
    (abandon midC midR s).log = s.log := rfl
@[simp] theorem abandon_freeC (midC midR : Bool) (s : State) :
    (abandon midC midR s).freeC = s.freeC := rfl
@[simp] theorem abandon_freeR (midC midR : Bool) (s : State) :
    (abandon midC midR s).freeR = s.freeR := rfl
@[simp] theorem abandon_cReq (midC midR : Bool) (s : State) :
    (abandon midC midR s).cReq = if midC && readyC s then s.cReq.tail else s.cReq := rfl
@[simp] theorem abandon_rx (midC midR : Bool) (s : State) :
    (abandon midC midR s).rx = if midR && readyR s then s.rx.tail else s.rx := rfl

/-! resetMachine -/

@[simp] theorem resetMachine_cfg (s : State) :
    (resetMachine s).cfg = s.cfg := rfl
@[simp] theorem resetMachine_boardId (s : State) :
    (resetMachine s).boardId = s.boardId := rfl
@[simp] theorem resetMachine_boardIdAlso (s : State) :
    (resetMachine s).boardIdAlso = s.boardIdAlso := rfl
@[simp] theorem resetMachine_rxState (s : State) :
    (resetMachine s).rxState = State.reset.rxState := rfl
@[simp] theorem resetMachine_cursorBuf (s : State) :
    (resetMachine s).cursorBuf = State.reset.cursorBuf := rfl
@[simp] theorem resetMachine_cursorIdx (s : State) :
    (resetMachine s).cursorIdx = State.reset.cursorIdx := rfl
@[simp] theorem resetMachine_rxPend (s : State) :
    (resetMachine s).rxPend = State.reset.rxPend := rfl
@[simp] theorem resetMachine_cPhase (s : State) :
    (resetMachine s).cPhase = State.reset.cPhase := rfl
@[simp] theorem resetMachine_cTxframe (s : State) :
    (resetMachine s).cTxframe = State.reset.cTxframe := rfl
@[simp] theorem resetMachine_cTxtimer (s : State) :
    (resetMachine s).cTxtimer = State.reset.cTxtimer := rfl
@[simp] theorem resetMachine_cRsp (s : State) :
    (resetMachine s).cRsp = State.reset.cRsp := rfl
@[simp] theorem resetMachine_codec (s : State) :
    (resetMachine s).codec = State.reset.codec := rfl
@[simp] theorem resetMachine_cReq (s : State) :
    (resetMachine s).cReq = s.cReq := rfl
@[simp] theorem resetMachine_rx (s : State) :
    (resetMachine s).rx = s.rx := rfl
@[simp] theorem resetMachine_sched (s : State) :
    (resetMachine s).sched = s.sched := rfl
@[simp] theorem resetMachine_log (s : State) :
    (resetMachine s).log = s.log := rfl
@[simp] theorem resetMachine_freeC (s : State) :
    (resetMachine s).freeC = s.freeC := rfl
@[simp] theorem resetMachine_freeR (s : State) :
    (resetMachine s).freeR = s.freeR := rfl

/-! afterBoardIdC -/

@[simp] theorem afterBoardIdC_cfg (s : State) :
    (afterBoardIdC s).cfg = s.cfg := by unfold afterBoardIdC; split <;> rfl
@[simp] theorem afterBoardIdC_boardId (s : State) :
    (afterBoardIdC s).boardId = s.boardId := by unfold afterBoardIdC; split <;> rfl
@[simp] theorem afterBoardIdC_boardIdAlso (s : State) :
    (afterBoardIdC s).boardIdAlso = s.boardIdAlso := by unfold afterBoardIdC; split <;> rfl
@[simp] theorem afterBoardIdC_rxState (s : State) :
    (afterBoardIdC s).rxState = s.rxState := by unfold afterBoardIdC; split <;> rfl
@[simp] theorem afterBoardIdC_cursorBuf (s : State) :
    (afterBoardIdC s).cursorBuf = s.cursorBuf := by unfold afterBoardIdC; split <;> rfl
@[simp] theorem afterBoardIdC_cursorIdx (s : State) :
    (afterBoardIdC s).cursorIdx = s.cursorIdx := by unfold afterBoardIdC; split <;> rfl
@[simp] theorem afterBoardIdC_rxPend (s : State) :
    (afterBoardIdC s).rxPend = s.rxPend := by unfold afterBoardIdC; split <;> rfl
@[simp] theorem afterBoardIdC_cPhase (s : State) :
    (afterBoardIdC s).cPhase = s.cPhase := by unfold afterBoardIdC; split <;> rfl
@[simp] theorem afterBoardIdC_cTxframe (s : State) :
    (afterBoardIdC s).cTxframe = s.cTxframe := by unfold afterBoardIdC; split <;> rfl
@[simp] theorem afterBoardIdC_cTxtimer (s : State) :
    (afterBoardIdC s).cTxtimer = s.cTxtimer := by unfold afterBoardIdC; split <;> rfl
@[simp] theorem afterBoardIdC_cRsp (s : State) :
    (afterBoardIdC s).cRsp = s.cRsp := by unfold afterBoardIdC; split <;> rfl
@[simp] theorem afterBoardIdC_codec (s : State) :
    (afterBoardIdC s).codec = s.codec := by unfold afterBoardIdC; split <;> rfl
@[simp] theorem afterBoardIdC_cReq (s : State) :
    (afterBoardIdC s).cReq = s.cReq := by unfold afterBoardIdC; split <;> rfl
@[simp] theorem afterBoardIdC_rx (s : State) :
    (afterBoardIdC s).rx = s.rx := by unfold afterBoardIdC; split <;> rfl
@[simp] theorem afterBoardIdC_sched (s : State) :
    (afterBoardIdC s).sched = s.sched := by unfold afterBoardIdC; split <;> rfl
@[simp] theorem afterBoardIdC_log (s : State) :
    (afterBoardIdC s).log = s.log := by unfold afterBoardIdC; split <;> rfl
@[simp] theorem afterBoardIdC_freeR (s : State) :
    (afterBoardIdC s).freeR = s.freeR := by unfold afterBoardIdC; split <;> rfl

/-! afterBoardIdR -/

@[simp] theorem afterBoardIdR_cfg (s : State) :
    (afterBoardIdR s).cfg = s.cfg := by unfold afterBoardIdR; split <;> rfl
@[simp] theorem afterBoardIdR_boardId (s : State) :
    (afterBoardIdR s).boardId = s.boardId := by unfold afterBoardIdR; split <;> rfl
@[simp] theorem afterBoardIdR_boardIdAlso (s : State) :
    (afterBoardIdR s).boardIdAlso = s.boardIdAlso := by unfold afterBoardIdR; split <;> rfl
@[simp] theorem afterBoardIdR_rxState (s : State) :
    (afterBoardIdR s).rxState = s.rxState := by unfold afterBoardIdR; split <;> rfl
@[simp] theorem afterBoardIdR_cursorBuf (s : State) :
    (afterBoardIdR s).cursorBuf = s.cursorBuf := by unfold afterBoardIdR; split <;> rfl
@[simp] theorem afterBoardIdR_cursorIdx (s : State) :
    (afterBoardIdR s).cursorIdx = s.cursorIdx := by unfold afterBoardIdR; split <;> rfl
@[simp] theorem afterBoardIdR_rxPend (s : State) :
    (afterBoardIdR s).rxPend = s.rxPend := by unfold afterBoardIdR; split <;> rfl
@[simp] theorem afterBoardIdR_cPhase (s : State) :
    (afterBoardIdR s).cPhase = s.cPhase := by unfold afterBoardIdR; split <;> rfl
@[simp] theorem afterBoardIdR_cTxframe (s : State) :
    (afterBoardIdR s).cTxframe = s.cTxframe := by unfold afterBoardIdR; split <;> rfl
@[simp] theorem afterBoardIdR_cTxtimer (s : State) :
    (afterBoardIdR s).cTxtimer = s.cTxtimer := by unfold afterBoardIdR; split <;> rfl
@[simp] theorem afterBoardIdR_cRsp (s : State) :
    (afterBoardIdR s).cRsp = s.cRsp := by unfold afterBoardIdR; split <;> rfl
@[simp] theorem afterBoardIdR_codec (s : State) :
    (afterBoardIdR s).codec = s.codec := by unfold afterBoardIdR; split <;> rfl
@[simp] theorem afterBoardIdR_cReq (s : State) :
    (afterBoardIdR s).cReq = s.cReq := by unfold afterBoardIdR; split <;> rfl
@[simp] theorem afterBoardIdR_rx (s : State) :
    (afterBoardIdR s).rx = s.rx := by unfold afterBoardIdR; split <;> rfl
@[simp] theorem afterBoardIdR_sched (s : State) :
    (afterBoardIdR s).sched = s.sched := by unfold afterBoardIdR; split <;> rfl
@[simp] theorem afterBoardIdR_log (s : State) :
    (afterBoardIdR s).log = s.log := by unfold afterBoardIdR; split <;> rfl
@[simp] theorem afterBoardIdR_freeC (s : State) :
    (afterBoardIdR s).freeC = s.freeC := by unfold afterBoardIdR; split <;> rfl

end Sys2Proof.Machine
end

