-- ==== Sys2Proof/Laws/Ops.lean ====
section
/-! SUPPORT. What each shared operation can do, once: the operand contract, the reads of the cursor and of
BOARD_ID, the fields of a packed response, the two framing functions of the channels. -/

namespace Sys2Proof.Machine

/-! Acceptance. -/

theorem readyC_iff (s : State) : readyC s = true ↔ s.cPhase = .idle ∧ s.cRsp = none := by
  simp [readyC]

theorem readyR_iff (s : State) : readyR s = true ↔ s.rxPend = none := by simp [readyR]

/-! The operand contract (R62). -/

theorem withBuf_busy {s : State} (h : readyC s = false) (o : Operands) (rule : State → State) :
    withBuf o s rule = .next s := by
  simp [withBuf, h]

theorem withBuf_tooLong {s : State} {o : Operands} (h : readyC s = true) (hl : s.cfg.bufMax < o.buf.length)
    (rule : State → State) : withBuf o s rule = .next (operandError s) := by
  simp [withBuf, h, bufTooLong, hl]

theorem withBuf_rule {s : State} {o : Operands} (h : readyC s = true) (hl : o.buf.length ≤ s.cfg.bufMax)
    (rule : State → State) : withBuf o s rule = .next (rule s) := by
  simp [withBuf, h, bufTooLong, Nat.not_lt.2 hl]

/-- An operation on `buf` always answers a next state: the same one when channel C is busy, OPERAND_ERROR, or
its own rule's. -/
theorem withBuf_cases (o : Operands) (s : State) (rule : State → State) :
    (readyC s = false ∧ withBuf o s rule = .next s) ∨
    (readyC s = true ∧ s.cfg.bufMax < o.buf.length ∧ withBuf o s rule = .next (operandError s)) ∨
    (readyC s = true ∧ o.buf.length ≤ s.cfg.bufMax ∧ withBuf o s rule = .next (rule s)) := by
  cases h : readyC s
  · exact .inl ⟨rfl, withBuf_busy h o rule⟩
  · rcases Nat.lt_or_ge s.cfg.bufMax o.buf.length with hl | hl
    · exact .inr (.inl ⟨rfl, hl, withBuf_tooLong h hl rule⟩)
    · exact .inr (.inr ⟨rfl, hl, withBuf_rule h hl rule⟩)

theorem withPayload_rule {s : State} {o : Operands} (h : readyC s = true) (hl : o.buf.length ≤ s.cfg.bufMax)
    (he : o.buf.length = o.len.toNat) (rule : State → State) :
    withPayload o s rule = .next (rule s) := by
  simp [withPayload, withBuf_rule h hl, lenMismatch, he]

theorem withPayload_mismatch {s : State} {o : Operands} (h : readyC s = true)
    (he : o.buf.length ≠ o.len.toNat) (rule : State → State) :
    withPayload o s rule = .next (operandError s) := by
  rcases withBuf_cases o s (fun s => if lenMismatch o then operandError s else rule s) with h' | h' | h'
  · simp [h] at h'
  · exact h'.2.2
  · simpa [withPayload, lenMismatch, he] using h'.2.2

/-- An operation on a payload always answers a next state. -/
theorem withPayload_cases (o : Operands) (s : State) (rule : State → State) :
    (readyC s = false ∧ withPayload o s rule = .next s) ∨
    (readyC s = true ∧ (s.cfg.bufMax < o.buf.length ∨ o.buf.length ≠ o.len.toNat) ∧
      withPayload o s rule = .next (operandError s)) ∨
    (readyC s = true ∧ o.buf.length ≤ s.cfg.bufMax ∧ o.buf.length = o.len.toNat ∧
      withPayload o s rule = .next (rule s)) := by
  cases h : readyC s
  · exact .inl ⟨rfl, withBuf_busy h o _⟩
  · by_cases he : o.buf.length = o.len.toNat
    · rcases Nat.lt_or_ge s.cfg.bufMax o.buf.length with hl | hl
      · exact .inr (.inl ⟨rfl, .inl hl, withBuf_tooLong h hl _⟩)
      · exact .inr (.inr ⟨rfl, hl, he, withPayload_rule h hl he rule⟩)
    · exact .inr (.inl ⟨rfl, .inr he, withPayload_mismatch h he rule⟩)

/-! The cursor (R40). -/

theorem curRead_of_lt {s : State} {i : Nat} (h : i < s.cfg.cursorCap) :
    curRead s i = .ok (Memory.read s.cursorBuf i) := by
  simp [curRead, h]

theorem curWrite_of_lt {s : State} {i : Nat} (h : i < s.cfg.cursorCap - 1) (v : Byte) :
    curWrite s i v = .ok { s with cursorBuf := Memory.write s.cursorBuf i v } := by
  simp [curWrite, h]

/-- The cursor bytes, when CURSOR_CAP covers them. -/
theorem cursorBytes_of_le {s : State} {n : Nat} (h : n ≤ s.cfg.cursorCap) :
    cursorBytes s n = .ok ((List.range n).map (Memory.read s.cursorBuf)) := by
  induction n with
  | zero => rfl
  | succ n ih => simp [cursorBytes, ih (by omega), curRead_of_lt (s := s) h, List.range_succ]

/-- Beyond CURSOR_CAP the first index out of range is the fault. -/
theorem cursorBytes_of_gt {s : State} {n : Nat} (h : s.cfg.cursorCap < n) :
    cursorBytes s n = .error (.curReadOutOfRange s.cfg.cursorCap) := by
  induction n with
  | zero => omega
  | succ n ih =>
    rcases Nat.lt_or_ge s.cfg.cursorCap n with h' | h'
    · simp [cursorBytes, ih h']
    · obtain rfl : n = s.cfg.cursorCap := by omega
      simp [cursorBytes, cursorBytes_of_le le_rfl, curRead]

/-! BOARD_ID (R27, R250). -/

theorem drawBoardId_stable {s : State} (h : s.boardIdAlso = []) (d : Nat) : drawBoardId d s = s.boardId := by
  simp [drawBoardId, h]

/-- R250: the value compared is one that the input holds. -/
theorem drawBoardId_mem (d : Nat) (s : State) : drawBoardId d s ∈ s.boardId :: s.boardIdAlso := by
  unfold drawBoardId
  split
  · exact List.mem_cons_self
  · have h : d % (s.boardIdAlso.length + 1) < (s.boardId :: s.boardIdAlso).length := Nat.mod_lt _ (by simp)
    rw [List.getD_eq_getElem _ _ h]
    exact List.getElem_mem h

@[simp] theorem afterBoardIdC_stable {s : State} (h : s.boardIdAlso = []) : afterBoardIdC s = s := by
  simp [afterBoardIdC, h]

@[simp] theorem afterBoardIdR_stable {s : State} (h : s.boardIdAlso = []) : afterBoardIdR s = s := by
  simp [afterBoardIdR, h]

/-! The receive channel's shared operation. -/

/-- R162: a completed frame has exactly one outcome, an event or a message. -/
theorem rxFrame_cases (f : List Byte) (s : State) :
    (∃ e, rxFrame f s = emitR e s ∨ rxFrame f s = emitR e (afterBoardIdR s)) ∨
    (∃ r, pktParse (cobsDecode f).out (boardIdR s) = .ok r ∧
      rxFrame f s = { afterBoardIdR s with rxPend := some (parsedMsg r) }) := by
  unfold rxFrame
  simp only
  split
  · exact .inl ⟨_, .inl rfl⟩
  · split
    · exact .inl ⟨_, .inl rfl⟩
    · split
      · rename_i r h
        exact .inr ⟨r, h, rfl⟩
      · exact .inl ⟨_, .inr rfl⟩

/-- R161: RX_DELIM with CURSOR_IDX in range. -/
theorem execRxDelim_of_le {s : State} (hr : readyR s = true) (h0 : s.cursorIdx ≠ 0)
    (h : s.cursorIdx ≤ s.cfg.cursorCap) :
    execRxDelim s =
      .next (rxFrame ((List.range s.cursorIdx).map (Memory.read s.cursorBuf)) { s with cursorIdx := 0 }) := by
  simp [execRxDelim, hr, h0, cursorBytes_of_le h]

/-- R160: RX_DATA with room in the cursor. -/
theorem execRxData_store {s : State} (hr : readyR s = true) (h : s.cursorIdx < s.cfg.cursorCap - 1) (b : Byte) :
    execRxData b s =
      .next { s with cursorBuf := Memory.write s.cursorBuf s.cursorIdx b, cursorIdx := s.cursorIdx + 1 } := by
  simp [execRxData, hr, h, curWrite_of_lt h]

/-- R160: RX_DATA with a full cursor. -/
theorem execRxData_overflow {s : State} (hr : readyR s = true) (h : ¬ s.cursorIdx < s.cfg.cursorCap - 1)
    (b : Byte) : execRxData b s = .next (emitR .rxOverflow { s with cursorIdx := 0 }) := by
  simp [execRxData, hr, h]

/-! The transmit wait (R183). -/

/-- A step of the wait in which the queue does not accept is a tick or the timeout. -/
theorem txHold_cases (s : State) :
    (timerRuns s = true ∧ txHold s = { s with cTxtimer := s.cTxtimer + 1 }) ∨
    (timerRuns s = false ∧
      txHold s = respond { status := .queueSendError } (emitC .queueSendError { s with cPhase := .idle })) := by
  cases h : timerRuns s <;> simp [txHold, h]

/-! Every instruction of channel C answers a next state. -/

/-- SEND's own rule is the overflow answer or the offer of its frame. -/
theorem sendRule_cases (o : Operands) (s : State) :
    sendRule o s = txOverflow s ∨
    (o.len.toNat ≤ s.cfg.maxPayload ∧ (txFrame o.id o.cmd o.buf).length ≤ s.cfg.maxFrame ∧
      sendRule o s = offerFrame (txFrame o.id o.cmd o.buf) s) := by
  unfold sendRule
  split
  · exact .inl rfl
  · simp only
    split
    · exact .inl rfl
    · exact .inr ⟨by omega, by omega, rfl⟩

/-- PARSE's own rule responds, after reading BOARD_ID. -/
theorem parseRule_cases (o : Operands) (s : State) : ∃ f, parseRule o s = respond f (afterBoardIdC s) := by
  unfold parseRule
  split <;> exact ⟨_, rfl⟩

/-- CHKVERIFY's own rule responds. -/
theorem chkverifyRule_cases (o : Operands) (s : State) : ∃ f, chkverifyRule o s = respond f s := by
  unfold chkverifyRule
  split
  · exact ⟨_, rfl⟩
  · simp only
    split <;> exact ⟨_, rfl⟩

/-- BUILD's own rule responds. -/
theorem buildRule_cases (o : Operands) (s : State) : ∃ f, buildRule o s = respond f s := by
  unfold buildRule
  split <;> exact ⟨_, rfl⟩

end Sys2Proof.Machine
end

