-- ==== Sys2Proof/Laws/PerInstr.lean ====
section
/-! SUPPORT. A statement about every instruction as syntax: what it is encoded as has the bits its row of the
opcode table fixes (30_encoding.md rules R60, R61, R70, R71). -/

namespace Sys2Proof

/-! The fields of an encoded request. -/

theorem reqOp_encodeRequest (op : BitVec 4) (o : Operands) : reqOp (encodeRequest op o) = op := by
  ext i hi
  have h : i < 8 ∧ i < 16 ∧ i < 32 := by omega
  simp [reqOp, encodeRequest, encodeReq0, h, BitVec.getLsbD_eq_getElem hi]

theorem reqRsv0_encodeRequest (op : BitVec 4) (o : Operands) : reqRsv0 (encodeRequest op o) = 0#4 := by
  ext i hi
  have h : 4 + i < 8 ∧ 4 + i < 16 ∧ 4 + i < 32 := by omega
  simp [reqRsv0, encodeRequest, encodeReq0, h]

theorem reqRsv1_encodeRequest (op : BitVec 4) (o : Operands) : reqRsv1 (encodeRequest op o) = 0#3 := by
  ext i hi
  have h : ¬ 29 + i < 8 ∧ ¬ 29 + i < 16 ∧ 29 + i < 32 ∧ 4 ≤ 29 + i ∧ 8 ≤ 29 + i - 8 ∧ 13 ≤ 29 + i - 16 := by
    omega
  simp [reqRsv1, encodeRequest, encodeReq0, h, BitVec.getLsbD_of_ge]

theorem reqRsv2_encodeRequest (op : BitVec 4) (o : Operands) : reqRsv2 (encodeRequest op o) = 0#8 := by
  ext i hi
  have h : 8 + i < 16 ∧ 8 + i < 32 ∧ 8 ≤ 8 + i := by omega
  simp [reqRsv2, encodeRequest, encodeReq1, h, BitVec.getLsbD_of_ge]

theorem reqBlen_encodeRequest (op : BitVec 4) (o : Operands) :
    reqBlen (encodeRequest op o) = BitVec.ofNat 16 o.buf.length := by
  ext i hi
  have h : 16 + i < 32 ∧ ¬ 16 + i < 16 ∧ 8 ≤ 16 + i ∧ i < 32 := by omega
  simp [reqBlen, encodeRequest, encodeReq1, h, BitVec.getLsbD_of_ge, hi]

/-- R60: the request of well-formed operands holds as many bytes as it says. -/
theorem requestComplete_encodeRequest (op : BitVec 4) {o : Operands} (h : o.wf = true) :
    requestComplete (encodeRequest op o) = true := by
  have hl : o.buf.length < 2 ^ 16 := by simpa [Operands.wf] using h
  simp only [requestComplete, reqBlen_encodeRequest, BitVec.toNat_ofNat, Nat.mod_eq_of_lt hl]
  simp [encodeRequest]

namespace Laws.RowFormat

/-- The item is a request of the operation `op`, its reserved fields 0, with as many operand bytes as it
says. -/
def IsRow (op : BitVec 4) : Item → Prop
  | .request r =>
    reqOp r = op ∧ reqRsv0 r = 0#4 ∧ reqRsv1 r = 0#3 ∧ reqRsv2 r = 0#8 ∧ requestComplete r = true
  | .stream _ => False
  | .code _ => False

theorem isRow_encodeRequest (op : BitVec 4) {o : Operands} (h : o.wf = true) :
    IsRow op (.request (encodeRequest op o)) :=
  ⟨reqOp_encodeRequest op o, reqRsv0_encodeRequest op o, reqRsv1_encodeRequest op o,
    reqRsv2_encodeRequest op o, requestComplete_encodeRequest op h⟩

/-- The item has the bits the instruction's row fixes. -/
def Fits (it : Item) : Instr → Prop
  | .encode _    => IsRow 0x1#4 it
  | .decode _    => IsRow 0x2#4 it
  | .chksum _    => IsRow 0x3#4 it
  | .chkverify _ => IsRow 0x4#4 it
  | .build _     => IsRow 0x5#4 it
  | .parse _     => IsRow 0x6#4 it
  | .send _      => IsRow 0x7#4 it
  | .rxDelim     => it = .stream 0x00#8
  | .rxData _    => ∃ b, it = .stream b ∧ b ≠ 0x00#8
  | .codeTerm    => it = .code 0x00#8
  | .codeRun _   => ∃ c, it = .code c ∧ c ≠ 0x00#8 ∧ c ≠ 0xFF#8
  | .codeFull    => it = .code 0xFF#8

/-- A well-formed instruction is encoded with the bits its row fixes. -/
def Statement (i : Instr) : Prop := i.wf = true → Fits (encodeItem i) i

theorem encode (o : Operands) : Statement (.encode o) := fun h => isRow_encodeRequest _ h
theorem decode (o : Operands) : Statement (.decode o) := fun h => isRow_encodeRequest _ h
theorem chksum (o : Operands) : Statement (.chksum o) := fun h => isRow_encodeRequest _ h
theorem chkverify (o : Operands) : Statement (.chkverify o) := fun h => isRow_encodeRequest _ h
theorem build (o : Operands) : Statement (.build o) := fun h => isRow_encodeRequest _ h
theorem parse (o : Operands) : Statement (.parse o) := fun h => isRow_encodeRequest _ h
theorem send (o : Operands) : Statement (.send o) := fun h => isRow_encodeRequest _ h
theorem rxDelim : Statement .rxDelim := fun _ => rfl
theorem rxData (b : Byte) : Statement (.rxData b) := fun h => ⟨b, rfl, by simpa [Instr.wf] using h⟩
theorem codeTerm : Statement .codeTerm := fun _ => rfl
theorem codeRun (c : Byte) : Statement (.codeRun c) := fun h => ⟨c, rfl, by simpa [Instr.wf] using h⟩
theorem codeFull : Statement .codeFull := fun _ => rfl

end Laws.RowFormat

end Sys2Proof
end

