-- ==== Sys2Proof/Laws/Step.lean ====
section
/-! SUPPORT. What one step can do, said once: where each move takes its instruction from, and the cases of a
step that answers a next state. -/

namespace Sys2Proof.Machine

theorem step_idle {s : State} (ha : configAdmitted s = true) (hs : s.sched = []) : step s = .next s := by
  simp [step, ha, hs]

theorem step_run {s t : State} {m : Move} {ms : List Move} {i : Instr} (ha : configAdmitted s = true)
    (hs : s.sched = m :: ms) (hf : fetch m { s with sched := ms } = .run i t) : step s = exec i t := by
  rw [step, if_neg (by simp [ha]), hs]
  simp only [hf]

theorem step_answer {s : State} {m : Move} {ms : List Move} {o : Host.Outcome State Fault Refusal}
    (ha : configAdmitted s = true) (hs : s.sched = m :: ms)
    (hf : fetch m { s with sched := ms } = .answer o) : step s = o := by
  rw [step, if_neg (by simp [ha]), hs]
  simp only [hf]

/-! Runs. -/

/-- A run of one step more. -/
theorem run_succ {s t : State} (h : step s = .next t) (n : Nat) :
    Host.Core.run Sys2Proof.core (n + 1) s = Host.Core.run Sys2Proof.core n t := by
  have key : ∀ (M : Host.Core) (u v : M.State), M.step u = .next v → M.run (n + 1) u = M.run n v := by
    intro M u v huv
    simp only [Host.Core.run, huv]
  exact key Sys2Proof.core s t h

/-- Two runs one after the other. -/
theorem run_add {n : Nat} : ∀ {s t : State}, Host.Core.run Sys2Proof.core n s = .next t → ∀ m : Nat,
    Host.Core.run Sys2Proof.core (n + m) s = Host.Core.run Sys2Proof.core m t := by
  induction n with
  | zero =>
    intro s t h m
    cases h
    rw [Nat.zero_add]
  | succ n ih =>
    intro s t h m
    have key : ∀ (M : Host.Core) (u v : M.State), M.run (n + 1) u = .next v →
        ∃ w, M.step u = .next w ∧ M.run n w = .next v := by
      intro M u v huv
      simp only [Host.Core.run] at huv
      split at huv
      · exact ⟨_, ‹_›, huv⟩
      · cases huv
      · cases huv
    obtain ⟨u, hu, hr⟩ := key Sys2Proof.core s t h
    rw [show n + 1 + m = n + m + 1 by omega, run_succ hu, ih hr]

/-! Channel C. -/

theorem fetchC_wait {s : State} (h : s.cPhase = .txWait) : fetchC s = .answer (.next (txHold s)) := by
  simp [fetchC, h]

theorem fetchC_pending {s : State} (hp : s.cPhase = .idle) (h : readyC s = false) :
    fetchC s = .answer (.next s) := by
  simp [fetchC, hp, h]

theorem fetchC_empty {s : State} (h : readyC s = true) (hq : s.cReq = []) : fetchC s = .answer (.next s) := by
  rw [fetchC, ((readyC_iff s).1 h).1]
  simp only [h, hq]
  rfl

theorem fetchC_request {s : State} {r : Request} {rest : List Request} (h : readyC s = true)
    (hq : s.cReq = r :: rest) : fetchC s = fetchRequest r { s with cReq := rest } := by
  rw [fetchC, ((readyC_iff s).1 h).1]
  simp only [h, hq]
  rfl

/-- An item without its operand bytes is no request, whatever its other fields hold. -/
theorem decodeRequest_incomplete {r : Request} (h : requestComplete r = false) :
    decodeRequest r = .error .notARequest := by
  simp [decodeRequest, h]

/-- A request is an instruction, is answered ILLEGAL_OP, or is no request. -/
theorem fetchRequest_cases (r : Request) (s : State) :
    (∃ i, decodeRequest r = .ok i ∧ fetchRequest r s = .run i s) ∨
    (requestComplete r = true ∧ fetchRequest r s = .answer (.next (illegalRequest s))) ∨
    (requestComplete r = false ∧ fetchRequest r s = .answer (.refused .notARequest)) := by
  unfold fetchRequest
  split
  · rename_i i h
    exact .inl ⟨i, h, rfl⟩
  · rename_i h
    refine .inr (.inl ⟨?_, rfl⟩)
    by_contra hc
    simp [decodeRequest, Bool.eq_false_iff.2 hc] at h
  · rename_i h
    refine .inr (.inl ⟨?_, rfl⟩)
    by_contra hc
    simp [decodeRequest, Bool.eq_false_iff.2 hc] at h
  · rename_i h
    refine .inr (.inr ⟨?_, rfl⟩)
    by_contra hc
    simp only [decodeRequest, Bool.eq_true_of_not_eq_false hc, Bool.true_eq_false, if_false] at h
    repeat' split at h
    all_goals cases h

/-! Channel R and the working buffer. -/

theorem fetchR_busy {s : State} (h : readyR s = false) : fetchR s = .answer (.next s) := by
  simp [fetchR, h]

theorem fetchR_empty {s : State} (h : readyR s = true) (hq : s.rx = []) : fetchR s = .answer (.next s) := by
  rw [fetchR, if_neg (by simp [h]), hq]

theorem fetchR_byte {s : State} {b : Byte} {rest : List Byte} (h : readyR s = true) (hq : s.rx = b :: rest) :
    fetchR s = .run (decodeStreamByte b) { s with rx := rest } := by
  rw [fetchR, if_neg (by simp [h]), hq]

theorem fetchCode_stopped {s : State} (h : s.codec.term = true ∨ s.codec.rest = []) :
    fetchCode s = .answer (.next s) := by
  unfold fetchCode
  split
  · rfl
  · rcases h with h | h
    · contradiction
    · rw [h]

theorem fetchCode_byte {s : State} {c : Byte} {rest : List Byte} (ht : s.codec.term = false)
    (hq : s.codec.rest = c :: rest) :
    fetchCode s = .run (decodeCodeByte c) { s with codec := { s.codec with rest := rest } } := by
  rw [fetchCode, if_neg (by simp [ht]), hq]

/-! The inversion of a step. -/

/-- What a step that answers a next state was: no move left, an instruction run, or one of the answers
without an instruction. -/
inductive StepCase (s t : State) : Prop where
  | idle (h : s.sched = []) (ht : t = s)
  | request (ms : List Move) (r : Request) (rest : List Request) (i : Instr) (hs : s.sched = .chanC :: ms)
      (hr : readyC s = true) (hq : s.cReq = r :: rest) (hd : decodeRequest r = .ok i)
      (ht : exec i { s with sched := ms, cReq := rest } = .next t)
  | illegal (ms : List Move) (r : Request) (rest : List Request) (hs : s.sched = .chanC :: ms)
      (hr : readyC s = true) (hq : s.cReq = r :: rest)
      (ht : t = illegalRequest { s with sched := ms, cReq := rest })
  | hold (ms : List Move) (hs : s.sched = .chanC :: ms) (hp : s.cPhase = .txWait)
      (ht : t = txHold { s with sched := ms })
  | byte (ms : List Move) (b : Byte) (rest : List Byte) (hs : s.sched = .chanR :: ms)
      (hr : readyR s = true) (hq : s.rx = b :: rest)
      (ht : exec (decodeStreamByte b) { s with sched := ms, rx := rest } = .next t)
  | code (ms : List Move) (c : Byte) (rest : List Byte) (hs : s.sched = .codeByte :: ms)
      (hc : s.codec.term = false) (hq : s.codec.rest = c :: rest)
      (ht : exec (decodeCodeByte c) { s with sched := ms, codec := { s.codec with rest := rest } } = .next t)
  | wait (m : Move) (ms : List Move) (hs : s.sched = m :: ms) (ht : t = { s with sched := ms })
  | accept (ms : List Move) (hs : s.sched = .txAccept :: ms) (ht : t = txAccept { s with sched := ms })
  | takeRsp (ms : List Move) (hs : s.sched = .rspTake :: ms) (ht : t = takeRsp { s with sched := ms })
  | takeMsg (ms : List Move) (hs : s.sched = .msgTake :: ms) (ht : t = takeMsg { s with sched := ms })
  | boardId (ms : List Move) (v : Nat) (l : List Nat) (hs : s.sched = .cfgBoardId v l :: ms)
      (ht : t = setBoardId v l { s with sched := ms })
  | reset (ms : List Move) (midC midR : Bool) (hs : s.sched = .rst midC midR :: ms)
      (ht : t = resetMachine (abandon midC midR { s with sched := ms }))

/-- Only an admitted configuration takes a step. -/
theorem admitted_of_step {s t : State} (h : step s = .next t) : configAdmitted s = true := by
  by_contra ha
  rw [step, if_pos (by simpa using ha)] at h
  cases h

theorem step_cases {s t : State} (h : step s = .next t) : StepCase s t := by
  have ha := admitted_of_step h
  match hs : s.sched with
  | [] =>
    rw [step_idle ha hs] at h
    cases h
    exact .idle hs rfl
  | .chanC :: ms =>
    cases hp : s.cPhase with
    | txWait =>
      rw [step_answer ha hs (fetchC_wait hp)] at h
      cases h
      exact .hold ms hs hp rfl
    | idle =>
      cases hr : readyC s with
      | false =>
        rw [step_answer ha hs (fetchC_pending (s := { s with sched := ms }) hp hr)] at h
        cases h
        exact .wait _ ms hs rfl
      | true =>
        match hq : s.cReq with
        | [] =>
          rw [step_answer ha hs (fetchC_empty (s := { s with sched := ms }) hr hq)] at h
          cases h
          exact .wait _ ms hs rfl
        | r :: rest =>
          have hf : fetch .chanC { s with sched := ms } = fetchRequest r { s with sched := ms, cReq := rest } :=
            fetchC_request (s := { s with sched := ms }) hr hq
          rcases fetchRequest_cases r { s with sched := ms, cReq := rest } with
            ⟨i, hd, hi⟩ | ⟨-, hi⟩ | ⟨-, hi⟩
          · rw [step_run ha hs (hf.trans hi)] at h
            exact .request ms r rest i hs hr hq hd h
          · rw [step_answer ha hs (hf.trans hi)] at h
            cases h
            exact .illegal ms r rest hs hr hq rfl
          · rw [step_answer ha hs (hf.trans hi)] at h
            cases h
  | .chanR :: ms =>
    cases hr : readyR s with
    | false =>
      rw [step_answer ha hs (fetchR_busy (s := { s with sched := ms }) hr)] at h
      cases h
      exact .wait _ ms hs rfl
    | true =>
      match hq : s.rx with
      | [] =>
        rw [step_answer ha hs (fetchR_empty (s := { s with sched := ms }) hr hq)] at h
        cases h
        exact .wait _ ms hs rfl
      | b :: rest =>
        rw [step_run ha hs (fetchR_byte (s := { s with sched := ms }) hr hq)] at h
        exact .byte ms b rest hs hr hq h
  | .codeByte :: ms =>
    by_cases hc : s.codec.term = true ∨ s.codec.rest = []
    · rw [step_answer ha hs (fetchCode_stopped (s := { s with sched := ms }) hc)] at h
      cases h
      exact .wait _ ms hs rfl
    · obtain ⟨hc, hq⟩ := not_or.1 hc
      obtain ⟨c, rest, hq⟩ := List.exists_cons_of_ne_nil hq
      have hc : s.codec.term = false := by simpa using hc
      rw [step_run ha hs (fetchCode_byte (s := { s with sched := ms }) hc hq)] at h
      exact .code ms c rest hs hc hq h
  | .txAccept :: ms =>
    rw [step_answer ha hs rfl] at h
    cases h
    exact .accept ms hs rfl
  | .rspTake :: ms =>
    rw [step_answer ha hs rfl] at h
    cases h
    exact .takeRsp ms hs rfl
  | .msgTake :: ms =>
    rw [step_answer ha hs rfl] at h
    cases h
    exact .takeMsg ms hs rfl
  | .cfgBoardId v l :: ms =>
    rw [step_answer ha hs rfl] at h
    cases h
    exact .boardId ms v l hs rfl
  | .rst midC midR :: ms =>
    rw [step_answer ha hs rfl] at h
    cases h
    exact .reset ms midC midR hs rfl

end Sys2Proof.Machine
end

