-- ==== Sys2Proof/Tests/Slice0.lean ====
section
/-! SUPPORT. Tests: ill-formed terms, words written out from the spec's encodings, single steps with the
expected values of 95_test_vectors.md (each named by its id), and a witness for the hypotheses of each
statement in Sys2Proof/Certificates/Slice0/Obligations.lean. -/

namespace Sys2Proof.Tests

open Sys2Proof.Machine Sys2Proof.Safety

/-! Small states. -/

/-- The reset state with TX_TIMEOUT = 2, the configuration of program P6. -/
def base : State := { State.reset with cfg := { Config.default with txTimeout := some 2 } }

/-- The next state of an outcome. -/
def nextOf : Host.Outcome State Fault Refusal → Option State
  | .next s => some s
  | .fault _ => none
  | .refused _ => none

/-- A request waits and channel C moves next. -/
def asked (s : State) (r : Request) : State := { s with cReq := [r], sched := [.chanC] }

/-- The response one step gives to a request. -/
def answer (s : State) (r : Request) : Option Response := (nextOf (step (asked s r))).bind (·.cRsp)

/-- A byte waits, the cursor holds `idx` bytes of `buf`, and channel R moves next. -/
def heard (buf : Memory) (idx : Nat) (b : Byte) : State :=
  { base with cursorBuf := buf, cursorIdx := idx, rx := [b], sched := [.chanR] }

/-- The five bytes of vector RX5 in the cursor. -/
def frameBuf : Memory := [(0, 0x01#8), (1, 0x02#8), (2, 0x34#8), (3, 0x02#8), (4, 0x34#8)]

/-- Events, message and cursor index after a step of channel R. -/
def heardResult (s : State) : Option (List Event × Option Msg × Nat) :=
  (nextOf (step s)).map fun t => (t.log.rEvt, t.rxPend, t.cursorIdx)

/-- A frame of vector SE1 is offered and has waited `n`. -/
def waiting (n : Nat) (m : Move) : State :=
  { base with
    cPhase := .txWait, cTxframe := ⟨6, [0x01#8, 0x02#8, 0x34#8, 0x02#8, 0x34#8, 0x00#8]⟩, cTxtimer := n,
    sched := [m] }

/-- The codec's working buffer holds `e`, and its next code byte moves next. -/
def coded (e : List Byte) : State := { base with codec := DecWork.start e, sched := [.codeByte] }

/-- A message waits on `msg`. -/
def pending : State := { base with rxPend := some ⟨1, 20, 0, []⟩, rx := [0x41#8], sched := [.chanR] }

/-! Ill-formed terms are refused (R60, R70, R71). -/

theorem test_illformed_operands :
    (⟨0, 0, 0, List.replicate (2 ^ 16) 0x00#8⟩ : Operands).wf = false := by
  rw [Operands.wf, List.length_replicate]
  decide

theorem test_illformed_requests (o : Operands) (h : o.wf = false) :
    [Instr.encode o, .decode o, .chksum o, .chkverify o, .build o, .parse o, .send o].map Instr.wf =
      [false, false, false, false, false, false, false] := by
  simp [Instr.wf, h]

theorem test_illformed_rxData : (Instr.rxData 0x00#8).wf = false := by decide
theorem test_illformed_codeRun_zero : (Instr.codeRun 0x00#8).wf = false := by decide
theorem test_illformed_codeRun_full : (Instr.codeRun 0xFF#8).wf = false := by decide

theorem test_wellformed_bounds : (Instr.rxData 0x01#8).wf = true ∧ (Instr.rxData 0xFF#8).wf = true ∧
    (Instr.codeRun 0x01#8).wf = true ∧ (Instr.codeRun 0xFE#8).wf = true := by decide

/-! Words written out from R60, R61: `op | cmd << 8 | id << 16`, `len | blen << 16`. -/

theorem test_decode_encode : decodeRequest ⟨0x00000001#32, 0x00020000#32, [0x11#8, 0x00#8]⟩ =
    .ok (.encode ⟨0, 0, 0, [0x11#8, 0x00#8]⟩) := by rfl
theorem test_decode_decode : decodeRequest ⟨0x00000002#32, 0x00010000#32, [0x01#8]⟩ =
    .ok (.decode ⟨0, 0, 0, [0x01#8]⟩) := by rfl
theorem test_decode_chksum : decodeRequest ⟨0x00000003#32, 0x00010000#32, [0x12#8]⟩ =
    .ok (.chksum ⟨0, 0, 0, [0x12#8]⟩) := by rfl
theorem test_decode_chkverify : decodeRequest ⟨0x00000004#32, 0x00000000#32, []⟩ =
    .ok (.chkverify ⟨0, 0, 0, []⟩) := by rfl
/-- Vector BU10: the largest operands. -/
theorem test_decode_build : decodeRequest ⟨0x1FFFFF05#32, 0x00000000#32, []⟩ =
    .ok (.build ⟨0xFF#8, 0x1FFF#13, 0, []⟩) := by rfl
/-- Vector RQ9: an operand field that PARSE does not use. -/
theorem test_decode_parse : decodeRequest ⟨0x00000006#32, 0x00000001#32, []⟩ =
    .ok (.parse ⟨0, 0, 1, []⟩) := by rfl
/-- Vector SE4. -/
theorem test_decode_send : decodeRequest ⟨0x00011407#32, 0x00030003#32, [0xAA#8, 0xBB#8, 0xCC#8]⟩ =
    .ok (.send ⟨20, 1, 3, [0xAA#8, 0xBB#8, 0xCC#8]⟩) := by rfl
theorem test_decode_stream : decodeStreamByte 0x00#8 = .rxDelim ∧ decodeStreamByte 0x01#8 = .rxData 0x01#8 ∧
    decodeStreamByte 0xFF#8 = .rxData 0xFF#8 := by decide
theorem test_decode_code : decodeCodeByte 0x00#8 = .codeTerm ∧ decodeCodeByte 0x01#8 = .codeRun 0x01#8 ∧
    decodeCodeByte 0xFE#8 = .codeRun 0xFE#8 ∧ decodeCodeByte 0xFF#8 = .codeFull := by decide
/-- Vectors RQ1 to RQ6, and a request short of an operand byte. -/
theorem test_decode_refuses :
    decodeRequest ⟨0x00000000#32, 0#32, []⟩ = .error .reservedOp ∧
    decodeRequest ⟨0x00000008#32, 0#32, []⟩ = .error .reservedOp ∧
    decodeRequest ⟨0x0000000F#32, 0#32, []⟩ = .error .reservedOp ∧
    decodeRequest ⟨0x00000011#32, 0#32, []⟩ = .error .reservedField ∧
    decodeRequest ⟨0x20000001#32, 0#32, []⟩ = .error .reservedField ∧
    decodeRequest ⟨0x00000001#32, 0x00000100#32, []⟩ = .error .reservedField ∧
    decodeRequest ⟨0x00000001#32, 0x00010000#32, []⟩ = .error .notARequest :=
  ⟨rfl, rfl, rfl, rfl, rfl, rfl, rfl⟩
/-- Vector BU4, encoded from its operands. -/
theorem test_encode_build : encodeItem (.build ⟨3, 1445, 3, [0x00#8, 0x10#8, 0x00#8]⟩) =
    .request ⟨0x05A50305#32, 0x00030003#32, [0x00#8, 0x10#8, 0x00#8]⟩ := by decide
/-- R77's two examples, and an operation that ignores `len`. -/
theorem test_asm_request :
    encodeItem (.build (asmOperands true (some 20) (some 1) none [])) = .request ⟨0x00011405#32, 0#32, []⟩ ∧
    encodeItem (.send (asmOperands true (some 20) (some 1) none [0xAA#8, 0xBB#8, 0xCC#8])) =
      .request ⟨0x00011407#32, 0x00030003#32, [0xAA#8, 0xBB#8, 0xCC#8]⟩ ∧
    encodeItem (.encode (asmOperands false none none none [0x11#8])) =
      .request ⟨0x00000001#32, 0x00010000#32, [0x11#8]⟩ := by decide
/-- R78: the six bytes of program P1. -/
theorem test_asm_rxf : asmRxf [0x01#8, 0x02#8, 0x34#8, 0x02#8, 0x34#8] =
    [.stream 0x01#8, .stream 0x02#8, .stream 0x34#8, .stream 0x02#8, .stream 0x34#8, .stream 0x00#8] := by decide
/-- The opcode table's match values, row by row. -/
theorem test_tableWords :
    decodeTableWord 32 0x1 = some (.encode ⟨0, 0, 0, []⟩) ∧ decodeTableWord 32 0x2 = some (.decode ⟨0, 0, 0, []⟩) ∧
    decodeTableWord 32 0x3 = some (.chksum ⟨0, 0, 0, []⟩) ∧
    decodeTableWord 32 0x4 = some (.chkverify ⟨0, 0, 0, []⟩) ∧
    decodeTableWord 32 0x5 = some (.build ⟨0, 0, 0, []⟩) ∧ decodeTableWord 32 0x6 = some (.parse ⟨0, 0, 0, []⟩) ∧
    decodeTableWord 32 0x7 = some (.send ⟨0, 0, 0, []⟩) ∧ decodeTableWord 8 0x00 = some .rxDelim ∧
    decodeTableWord 8 0x41 = some (.rxData 0x41#8) ∧ decodeTableWord 8 0xFF = some .codeFull := by decide

/-! Single steps: requests. -/

/-- Vector EN6. -/
theorem test_encode_zero_inside : answer base ⟨0x00000001#32, 0x00040000#32, [0x11#8, 0x22#8, 0x00#8, 0x33#8]⟩ =
    some ⟨0#32, 0x00050000#32, [0x03#8, 0x11#8, 0x22#8, 0x02#8, 0x33#8]⟩ := by decide
/-- Vector EN8. -/
theorem test_encode_outer_zeros : answer base ⟨0x00000001#32, 0x00030000#32, [0x00#8, 0x11#8, 0x00#8]⟩ =
    some ⟨0#32, 0x00040000#32, [0x01#8, 0x02#8, 0x11#8, 0x01#8]⟩ := by decide
/-- Vector DE9. -/
theorem test_decode_term : answer base ⟨0x00000002#32, 0x00050000#32, [0x02#8, 0x11#8, 0x00#8, 0x02#8, 0x22#8]⟩ =
    some ⟨0x00000010#32, 0x00010000#32, [0x11#8]⟩ := by decide
/-- Vector DE11. -/
theorem test_decode_trunc :
    answer base ⟨0x00000002#32, 0x000B0000#32, 0xFF#8 :: List.replicate 10 0x41#8⟩ =
      some ⟨0x00000020#32, 0x000A0000#32, List.replicate 10 0x41#8⟩ := by decide
/-- Vector CS7. -/
theorem test_chksum : answer base
    ⟨0x00000003#32, 0x00060000#32, [0x00#8, 0x34#8, 0x03#8, 0xAA#8, 0xBB#8, 0xCC#8]⟩ =
    some ⟨0#32, 0x000000EA#32, []⟩ := by decide
/-- Vector CV3. -/
theorem test_chkverify_bad : answer base ⟨0x00000004#32, 0x00010000#32, [0x12#8]⟩ =
    some ⟨0x00000004#32, 0#32, []⟩ := by decide
/-- Vector CV5. -/
theorem test_chkverify_flipped : answer base ⟨0x00000004#32, 0x00040000#32, [0x00#8, 0x34#8, 0x00#8, 0x35#8]⟩ =
    some ⟨0x00000004#32, 0x00000034#32, []⟩ := by decide
/-- Vector BU4. -/
theorem test_build : answer base ⟨0x05A50305#32, 0x00030003#32, [0x00#8, 0x10#8, 0x00#8]⟩ =
    some ⟨0#32, 0x00070000#32, [0xB4#8, 0xA3#8, 0x03#8, 0x00#8, 0x10#8, 0x00#8, 0x04#8]⟩ := by decide
/-- Vector BU8: one byte beyond MAX_PAYLOAD. -/
theorem test_build_size : answer base ⟨0x00010105#32, 0x00150015#32, List.replicate 21 0x00#8⟩ =
    some ⟨0x00000007#32, 0#32, []⟩ := by decide
/-- Vector PA2. -/
theorem test_parse : answer base
    ⟨0x00000006#32, 0x00070000#32, [0x00#8, 0x34#8, 0x03#8, 0xAA#8, 0xBB#8, 0xCC#8, 0xEA#8]⟩ =
    some ⟨0x00011400#32, 0x00030003#32, [0xAA#8, 0xBB#8, 0xCC#8]⟩ := by decide
/-- Vector PA12: all header bits, BOARD_ID 2047. -/
theorem test_parse_wide : answer { base with boardId := 2047 }
    ⟨0x00000006#32, 0x00040000#32, [0xFF#8, 0xFF#8, 0x00#8, 0x00#8]⟩ =
    some ⟨0x07FF1F00#32, 0#32, []⟩ := by decide
/-- Vector SE4. -/
theorem test_send : (nextOf (step (asked base
      ⟨0x00011407#32, 0x00030003#32, [0xAA#8, 0xBB#8, 0xCC#8]⟩))).map
        (fun t => (t.cPhase, t.cTxframe, t.cTxtimer, t.cRsp)) =
    some (.txWait, ⟨9, [0x01#8, 0x07#8, 0x34#8, 0x03#8, 0xAA#8, 0xBB#8, 0xCC#8, 0xEA#8, 0x00#8]⟩, 0, none) := by
  decide
/-- Vector SE3. -/
theorem test_send_overflow : (nextOf (step (asked base
      ⟨0x00010207#32, 0x00150015#32, List.replicate 21 0x55#8⟩))).map
        (fun t => (t.cPhase, t.cRsp, t.log.cEvt)) =
    some (.idle, some ⟨0x00000006#32, 0#32, []⟩, [.txOverflow]) := by decide
/-- Program P6, step 3: a tick. -/
theorem test_send_tick : (nextOf (step (waiting 1 .chanC))).map (fun t => (t.cPhase, t.cTxtimer)) =
    some (.txWait, 2) := by decide
/-- Program P6, step 4: the timeout. -/
theorem test_send_timeout : (nextOf (step (waiting 2 .chanC))).map
      (fun t => (t.cPhase, t.cRsp, t.log.cEvt, t.log.tx)) =
    some (.idle, some ⟨0x00000008#32, 0#32, []⟩, [.queueSendError], []) := by decide
/-- Vector SE1, accepted. -/
theorem test_send_accept : (nextOf (step (waiting 2 .txAccept))).map
      (fun t => (t.cPhase, t.cRsp, t.log.cEvt, t.log.tx)) =
    some (.idle, some ⟨0#32, 0#32, []⟩, [],
      [⟨6, [0x01#8, 0x02#8, 0x34#8, 0x02#8, 0x34#8, 0x00#8]⟩]) := by decide
/-- Vectors RQ4 and RQ8. -/
theorem test_request_checks :
    answer base ⟨0x00000011#32, 0#32, []⟩ = some ⟨0x00000009#32, 0#32, []⟩ ∧
    answer base ⟨0x00011405#32, 0x00020003#32, [0xAA#8, 0xBB#8]⟩ = some ⟨0x0000000A#32, 0#32, []⟩ := by decide

/-! Single steps: bytes. -/

/-- Vector RX2. -/
theorem test_rxData_last : (nextOf (step (heard [] 24 0x41#8))).map
      (fun t => (t.cursorIdx, t.cursorBuf, t.log.rEvt)) = some (25, [(24, 0x41#8)], []) := by decide
/-- Vector RX3. -/
theorem test_rxData_overflow : (nextOf (step (heard [] 25 0x42#8))).map
      (fun t => (t.cursorIdx, t.cursorBuf, t.log.rEvt)) = some (0, [], [.rxOverflow]) := by decide
/-- Vector RX5, its last byte. -/
theorem test_rxDelim_message :
    heardResult (heard frameBuf 5 0x00#8) = some ([], some ⟨1, 20, 0, []⟩, 0) := by decide
/-- Vectors RX4, RX6 and RX9, their last bytes. -/
theorem test_rxDelim_events :
    heardResult (heard frameBuf 0 0x00#8) = some ([.malformed], none, 0) ∧
    heardResult (heard frameBuf 1 0x00#8) = some ([.decodeError], none, 0) ∧
    heardResult (heard [(0, 0x01#8), (1, 0x02#8), (2, 0x54#8), (3, 0x02#8), (4, 0x54#8)] 5 0x00#8) =
      some ([.unrecognizedId], none, 0) := by decide
/-- The first block of vector DE6. -/
theorem test_codeRun : (nextOf (step (coded [0x03#8, 0x11#8, 0x22#8, 0x02#8, 0x33#8]))).map (·.codec) =
    some ⟨[0x02#8, 0x33#8], [0x11#8, 0x22#8], 0x03#8, false, false⟩ := by decide
/-- Vector DE11, code byte by code byte. -/
theorem test_codeFull : (nextOf (step (coded (0xFF#8 :: List.replicate 10 0x41#8)))).map (·.codec) =
    some ⟨[], List.replicate 10 0x41#8, 0xFF#8, false, true⟩ := by decide
/-- Vector DE10, its first code byte. -/
theorem test_codeTerm : (nextOf (step (coded [0x00#8, 0x02#8]))).map (fun t => (t.codec.out, t.codec.term)) =
    some ([], true) := by decide

/-! A table row's word runs as the first instruction after reset. -/

theorem test_withFetchWord_build :
    ((nextOf (step (State.reset.withFetchWord 32 0x5))).bind (·.cRsp)) =
      some ⟨0#32, 0x00040000#32, [0x00#8, 0x00#8, 0x00#8, 0x00#8]⟩ := by decide
theorem test_withFetchWord_codeFull :
    ((nextOf (step (State.reset.withFetchWord 8 0xFF))).map (·.codec.prev)) = some 0xFF#8 := by decide
theorem test_reset_idles : step State.reset = .next State.reset := by rfl

/-! Witnesses: for each statement with hypotheses a concrete state and operands that meet them together, at
the boundary values where its clauses meet. -/

/-- BUILD of program P5, line 3. -/
def okOperands : Operands := ⟨20, 1, 3, [0xAA#8, 0xBB#8, 0xCC#8]⟩

/-- A payload of exactly MAX_PAYLOAD bytes, and one byte more. -/
def fullOperands (n : Nat) : Operands := ⟨20, 1, BitVec.ofNat 8 n, List.replicate n 0x55#8⟩

/-- A response waits on `c_rsp`. -/
def unanswered (ms : List Move) : State := { base with cRsp := some ⟨0#32, 0#32, []⟩, sched := ms }

/-- 254 bytes 0x41. -/
def fullBlock : List Byte := List.replicate 254 0x41#8

theorem test_meets_StepRunsDecodedInstruction_request :
    configAdmitted (asked base ⟨0x00000005#32, 0#32, []⟩) = true ∧
    (asked base ⟨0x00000005#32, 0#32, []⟩).sched = [.chanC] ∧
    readyC (asked base ⟨0x00000005#32, 0#32, []⟩) = true ∧
    (asked base ⟨0x00000005#32, 0#32, []⟩).cReq = [⟨0x00000005#32, 0#32, []⟩] ∧
    decodeRequest ⟨0x00000005#32, 0#32, []⟩ = .ok (.build ⟨0, 0, 0, []⟩) :=
  ⟨by decide, rfl, by decide, rfl, rfl⟩
theorem test_meets_StepRunsDecodedInstruction_byte :
    configAdmitted (heard [] 0 0x41#8) = true ∧ (heard [] 0 0x41#8).sched = [.chanR] ∧
    readyR (heard [] 0 0x41#8) = true ∧ (heard [] 0 0x41#8).rx = [0x41#8] := by decide
theorem test_meets_StepRunsDecodedInstruction_code :
    configAdmitted (coded [0xFF#8]) = true ∧ (coded [0xFF#8]).sched = [.codeByte] ∧
    (coded [0xFF#8]).codec.term = false ∧ (coded [0xFF#8]).codec.rest = [0xFF#8] := by decide
theorem test_meets_DecodeOfEncode : (Instr.send okOperands).wf = true ∧ (Instr.codeRun 0xFE#8).wf = true := by
  decide
theorem test_meets_EncodeOfDecode :
    decodeItem (.request ⟨0x00000006#32, 0x00000001#32, []⟩) = .ok (.parse ⟨0, 0, 1, []⟩) := by rfl

/-- RQ1: reserved op; RQ4 to RQ6: one reserved field each; the state is one. -/
theorem test_meets_RequestChecksInOrder_illegal : ∀ r ∈ ([⟨0#32, 0#32, []⟩, ⟨0x00000008#32, 0#32, []⟩,
      ⟨0x00000011#32, 0#32, []⟩, ⟨0x20000001#32, 0#32, []⟩, ⟨0x00000001#32, 0x00000100#32, []⟩] : List Request),
    configAdmitted (asked base r) = true ∧ (asked base r).sched = [.chanC] ∧ readyC (asked base r) = true ∧
    (asked base r).cReq = [r] ∧ requestComplete r = true ∧
    (r.req0.extractLsb' 4 4 ≠ 0#4 ∨ r.req0.extractLsb' 29 3 ≠ 0#3 ∨ r.req1.extractLsb' 8 8 ≠ 0#8 ∨
      r.req0.extractLsb' 0 4 = 0#4 ∨ 8 ≤ (r.req0.extractLsb' 0 4).toNat) := by decide
/-- RQ7's shape with BUF_MAX = 30: 31 operand bytes. -/
theorem test_meets_RequestChecksInOrder_tooLong :
    let s := { base with cfg := { base.cfg with bufMax := 30 } }
    let r : Request := ⟨0x00000001#32, 0x001F0000#32, List.replicate 31 0x00#8⟩
    configAdmitted (asked s r) = true ∧ readyC (asked s r) = true ∧ requestComplete r = true ∧
    r.req0.extractLsb' 4 4 = 0#4 ∧ r.req0.extractLsb' 29 3 = 0#3 ∧ r.req1.extractLsb' 8 8 = 0#8 ∧
    r.req0.extractLsb' 0 4 = 1#4 ∧ s.cfg.bufMax < (r.req1.extractLsb' 16 16).toNat := by decide
/-- RQ8. -/
theorem test_meets_RequestChecksInOrder_mismatch :
    let r : Request := ⟨0x00011405#32, 0x00020003#32, [0xAA#8, 0xBB#8]⟩
    configAdmitted (asked base r) = true ∧ readyC (asked base r) = true ∧ requestComplete r = true ∧
    r.req0.extractLsb' 4 4 = 0#4 ∧ r.req0.extractLsb' 29 3 = 0#3 ∧ r.req1.extractLsb' 8 8 = 0#8 ∧
    r.req0.extractLsb' 0 4 = 5#4 ∧ ¬ base.cfg.bufMax < (r.req1.extractLsb' 16 16).toNat ∧
    (r.req1.extractLsb' 16 16).toNat ≠ (r.req1.extractLsb' 0 8).toNat := by decide
theorem test_meets_UnusedOperandsIgnored : (⟨20, 1, 3, [0x01#8]⟩ : Operands).buf = (⟨0, 0, 0, [0x01#8]⟩ : Operands).buf ∧
    (⟨20, 1, 3, [0x01#8]⟩ : Operands) ≠ ⟨0, 0, 0, [0x01#8]⟩ := by decide
theorem test_meets_BusyChannelsWait_C :
    (waiting 0 .chanC).cPhase = .txWait ∧ configAdmitted (waiting 0 .chanC) = true ∧
    (waiting 0 .chanC).sched = [.chanC] ∧
    (unanswered [.chanC]).cRsp ≠ none ∧ configAdmitted (unanswered [.chanC]) = true ∧
    (unanswered [.chanC]).cPhase = .idle ∧ (unanswered [.chanC]).sched = [.chanC] ∧
    isChanC (.encode okOperands) = true := by decide
theorem test_meets_BusyChannelsWait_R :
    pending.rxPend = some ⟨1, 20, 0, []⟩ ∧ configAdmitted pending = true ∧ pending.sched = [.chanR] ∧
    isChanR .rxDelim = true := by decide

/-- For EncodeAnswers, DecodeAnswers, ChksumAnswers, BuildAnswers, SendAnswers and the first clause of
OneStatusPerSend. -/
theorem test_meets_readyC : readyC base = true ∧ okOperands.buf.length ≤ base.cfg.bufMax ∧
    okOperands.buf.length = okOperands.len.toNat ∧ okOperands.len.toNat ≤ base.cfg.maxPayload := by decide
theorem test_meets_fullBlock : fullBlock.length = 254 ∧ 0x00#8 ∉ fullBlock := by
  refine ⟨List.length_replicate, fun h => ?_⟩
  have := List.eq_of_mem_replicate h
  revert this
  decide
theorem test_meets_CodeTermStops_prefix :
    (cobsDecode [0x02#8, 0x11#8]).trunc = false ∧ (cobsDecode [0x02#8, 0x11#8]).term = false := by decide
theorem test_meets_CodeTermStops_stopped :
    ({ base with codec := blockTerm base.codec } : State).codec.term = true := by decide
theorem test_meets_CodeBlocksCopyLiterals :
    (coded [0x11#8]).codec.term = false ∧ (0x01#8 : Byte) ≠ 0x00#8 ∧ (0x01#8 : Byte) ≠ 0xFF#8 ∧
    (0xFE#8 : Byte) ≠ 0xFF#8 ∧ (0xFF#8 : Byte) ≠ 0x00#8 := by decide
theorem test_meets_CodeBytesComputeDecode :
    configAdmitted (coded [0x01#8]) = true ∧ (coded [0x01#8]).codec = DecWork.start [0x01#8] ∧
    (coded [0x01#8]).sched = List.replicate 1 Move.codeByte ++ [] := by decide
/-- The lengths where EncodedLength's clauses meet: 1, 254 and 255 non-zero bytes. -/
theorem test_meets_EncodedLength : 1 ≤ fullBlock.length ∧ fullBlock.length ≤ 254 ∧ 0x00#8 ∉ fullBlock ∧
    0x00#8 ∉ 0x41#8 :: fullBlock ∧ (0x41#8 :: fullBlock).length = 251 + 4 := by
  obtain ⟨hl, h0⟩ := test_meets_fullBlock
  refine ⟨by omega, by omega, h0, ?_, by rw [List.length_cons, hl]⟩
  rw [List.mem_cons]
  exact not_or.2 ⟨by decide, h0⟩
theorem test_meets_DecodeNeverExpands : 2 ≤ 2 ∧ [0x01#8].length ≤ 2 - 1 := by decide
theorem test_meets_ChkverifyAnswers : readyC base = true ∧ ([] : List Byte).length ≤ base.cfg.bufMax ∧
    [0x12#8].length ≤ base.cfg.bufMax ∧ [0x12#8] = [] ++ [0x12#8] := by decide
/-- The clause of ChkverifyAnswers and ParseAnswers for an operand longer than BUF_MAX. -/
theorem test_meets_tooLong : readyC { base with cfg := { base.cfg with bufMax := 30 } } = true ∧
    30 < (fullOperands 31).buf.length := by decide
theorem test_meets_ChecksumIsXorInAnyOrder : [0x01#8, 0x02#8].Perm [0x02#8, 0x01#8] := by decide
theorem test_meets_ChecksumDetection : [0x12#8, 0x12#8].length = [0x12#8, 0x13#8].length ∧
    chk [0x12#8, 0x12#8] = 0x00#8 ∧ chk ([0x12#8] ++ 0x12#8 :: []) = 0x00#8 ∧ (0x12#8 : Byte) ≠ 0x13#8 := by decide
theorem test_meets_PacketLayout : (List.replicate 255 0x55#8).length ≤ 255 :=
  List.length_replicate.le
/-- BuildAnswers and SendAnswers at their bounds: MAX_PAYLOAD bytes, one more, and a length that is not that
of the payload. -/
theorem test_meets_payloadBounds :
    (fullOperands 20).buf.length = (fullOperands 20).len.toNat ∧ ¬ base.cfg.maxPayload < (fullOperands 20).len.toNat ∧
    (fullOperands 21).buf.length = (fullOperands 21).len.toNat ∧ (fullOperands 21).buf.length ≤ base.cfg.bufMax ∧
    base.cfg.maxPayload < (fullOperands 21).buf.length ∧
    (⟨20, 1, 3, [0xAA#8]⟩ : Operands).buf.length ≠ (⟨20, 1, 3, [0xAA#8]⟩ : Operands).len.toNat := by decide
/-- Vectors PA1, PA5, PA7 and PA8: one for each clause of ParsePrecedence. -/
theorem test_meets_ParsePrecedence :
    pktParse [0x00#8, 0x34#8, 0x00#8, 0x34#8] 1 = .ok ⟨1, 20, 0, []⟩ ∧
    pktParse [0x00#8, 0x34#8, 0x01#8, 0x34#8] 1 = .error .malformed ∧
    pktParse [0x00#8, 0x34#8, 0x00#8, 0x35#8] 1 = .error .checksumError ∧
    pktParse [0x00#8, 0x54#8, 0x00#8, 0x54#8] 1 = .error .unrecognizedId := ⟨rfl, rfl, rfl, rfl⟩
theorem test_meets_ParseInvertsBuild : (List.replicate 255 0x55#8).length ≤ 255 ∧
    (1 : BitVec 13).toNat % 2048 = 1 ∧ (2048 : BitVec 13).toNat % 2048 ≠ 1 :=
  ⟨List.length_replicate.le, by decide, by decide⟩
theorem test_meets_ParseAnswers : readyC base = true ∧ okOperands.buf.length ≤ base.cfg.bufMax ∧
    base.boardIdAlso = [] := by decide
theorem test_meets_BoardIdReadIsHeld :
    configAdmitted { base with sched := [.cfgBoardId 2 []] } = true ∧
    ({ base with sched := [.cfgBoardId 2 []] } : State).sched = [.cfgBoardId 2 []] := by decide
/-- RX2 and RX3: the last index with room, and the first without. -/
theorem test_meets_RxDataAnswers :
    (0x41#8 : Byte) ≠ 0x00#8 ∧ (heard [] 24 0x41#8).rxPend = none ∧
    (heard [] 24 0x41#8).cursorIdx < (heard [] 24 0x41#8).cfg.cursorCap - 1 ∧
    (heard [] 25 0x41#8).cfg.cursorCap - 1 ≤ (heard [] 25 0x41#8).cursorIdx := by decide
theorem test_meets_RxDelimAnswers :
    (heard frameBuf 5 0x00#8).rxPend = none ∧
    (heard frameBuf 5 0x00#8).cursorIdx ≤ (heard frameBuf 5 0x00#8).cfg.cursorCap ∧
    (heard [] 0 0x00#8).cursorIdx = 0 ∧
    ∀ i < (heard frameBuf 5 0x00#8).cursorIdx, Memory.read (heard frameBuf 5 0x00#8).cursorBuf i ≠ 0x00#8 := by
  decide
theorem test_meets_OverflowCount :
    let s := { heard [] 25 0x41#8 with rx := [0x41#8] ++ [], sched := List.replicate 1 Move.chanR ++ [] }
    configAdmitted s = true ∧ s.rxPend = none ∧ s.cursorIdx ≤ s.cfg.cursorCap - 1 ∧ 0x00#8 ∉ [0x41#8] := by decide

/-- The frame of SE1 before its delimiter. -/
def sentBytes : List Byte := [0x01#8, 0x02#8, 0x34#8, 0x02#8, 0x34#8]

theorem test_meets_Resynchronisation :
    let e := cobsEncode (pktBuild (BitVec.ofNat 13 base.boardId) 20 [])
    let s := { base with rx := [0x41#8] ++ [0x00#8] ++ e ++ [0x00#8] ++ [],
                         sched := rxMoves ([0x41#8].length + 1) ++ rxMoves (e.length + 1) ++ [] }
    e = sentBytes ∧ configAdmitted s = true ∧ s.boardIdAlso = [] ∧ s.rxPend = none ∧
    s.cursorIdx ≤ s.cfg.cursorCap - 1 ∧ e.length ≤ s.cfg.cursorCap - 1 := by decide
/-- Program P2. -/
theorem test_meets_CorruptedFrameThenValidFrame :
    let good := pktBuild 1 20 []
    let e := cobsEncode (good.dropLast ++ [good.getLastD 0x00#8 ^^^ 0x01#8])
    let f := cobsEncode (pktBuild (BitVec.ofNat 13 base.boardId) 20 [0xAA#8, 0xBB#8, 0xCC#8])
    let s := { base with rx := e ++ [0x00#8] ++ f ++ [0x00#8], sched := rxMoves (e.length + 1 + (f.length + 1)) ++ [] }
    e = [0x01#8, 0x02#8, 0x34#8, 0x02#8, 0x35#8] ∧ configAdmitted s = true ∧ s.boardIdAlso = [] ∧
    s.rxPend = none ∧ s.cursorIdx = 0 ∧ e.length ≤ s.cfg.cursorCap - 1 ∧ f.length ≤ s.cfg.cursorCap - 1 := by
  decide
theorem test_meets_ReceivedLengthBounded :
    (heard frameBuf 5 0x00#8).cursorIdx ≤ (heard frameBuf 5 0x00#8).cfg.cursorCap - 1 ∧
    (heard frameBuf 5 0x00#8).rxPend = none ∧
    ∃ t, exec .rxDelim (heard frameBuf 5 0x00#8) = .next t ∧ t.rxPend = some ⟨1, 20, 0, []⟩ :=
  ⟨by decide, rfl, _, rfl, by decide⟩
/-- The three clauses of SendWaitSteps: accept, the last tick, the timeout. -/
theorem test_meets_SendWaitSteps :
    (∀ s ∈ [waiting 0 .txAccept, waiting 1 .chanC, waiting 2 .chanC],
      configAdmitted s = true ∧ s.cPhase = .txWait ∧ s.cRsp = none ∧ s.cfg.txTimeout = some 2) ∧
    (waiting 1 .chanC).cTxtimer < 2 ∧ 2 ≤ (waiting 2 .chanC).cTxtimer := by decide
theorem test_meets_SendWaitEnds :
    let s := { waiting 2 .chanC with sched := List.replicate (2 - 2 + 1) Move.chanC ++ [] }
    configAdmitted s = true ∧ s.cPhase = .txWait ∧ s.cfg.txTimeout = some 2 ∧ s.cTxtimer ≤ 2 ∧ s.cTxtimer = 2 := by
  decide
theorem test_meets_FrameCheckNeverFails : configAdmitted base = true ∧
    (fullOperands 20).buf.length ≤ base.cfg.maxPayload := by decide
theorem test_meets_SentFrameIsReceived :
    let t := txFrame (BitVec.ofNat 13 base.boardId) 20 []
    let s := { base with rx := t ++ [], sched := List.replicate t.length Move.chanR ++ [] }
    configAdmitted s = true ∧ s.boardIdAlso = [] ∧ s.rxPend = none ∧ s.cursorIdx = 0 ∧
    s.cfg.maxFrame ≤ s.cfg.cursorCap ∧ ([] : List Byte).length ≤ s.cfg.maxPayload := by decide
/-- The frames of channel C: each instruction answers a next state from `base`. -/
theorem test_meets_ChannelCFrame : ∀ i ∈ [Instr.encode okOperands, .decode okOperands, .chksum okOperands,
    .chkverify okOperands, .build okOperands, .parse okOperands, .send okOperands],
    (nextOf (exec i base)).isSome = true := by decide
theorem test_meets_ChannelRFrame : (nextOf (exec (.rxData 0x41#8) base)).isSome = true ∧
    (nextOf (exec .rxDelim (heard frameBuf 5 0x00#8))).isSome = true ∧ (0 : Nat) ≠ base.cursorIdx + 1 := by decide
theorem test_meets_CodeByteFrame : ∀ i ∈ [Instr.codeTerm, .codeRun 0x02#8, .codeFull],
    (nextOf (exec i (coded [0x11#8]))).isSome = true := by decide
theorem test_meets_ChannelsCommute : isChanC (.send okOperands) = true ∧ isChanR (.rxData 0x41#8) = true := by decide
theorem test_meets_AnswersDependOnRequestOnly :
    readyC base = true ∧ readyC (heard frameBuf 5 0x00#8) = true ∧ base.cfg = (heard frameBuf 5 0x00#8).cfg ∧
    base.boardIdAlso = [] ∧ (heard frameBuf 5 0x00#8).boardIdAlso = [] ∧
    base.boardId = (heard frameBuf 5 0x00#8).boardId := by decide
theorem test_meets_EventsFromPipelineStepsOnly :
    (nextOf (exec (.send (fullOperands 21)) base)).map (·.log.cEvt) = some [.txOverflow] ∧
    (nextOf (exec (.build (fullOperands 21)) base)).map (·.log.cEvt) = some [] := by decide
theorem test_meets_PortsKeepOrder : (nextOf (step (waiting 0 .txAccept))).isSome = true := by decide
theorem test_meets_ItemsTakenOnce :
    configAdmitted { pending with sched := [.msgTake] } = true ∧ pending.rxPend = some ⟨1, 20, 0, []⟩ ∧
    configAdmitted (unanswered [.rspTake]) = true ∧ (unanswered [.rspTake]).cRsp = some ⟨0#32, 0#32, []⟩ := by decide
/-- OnlyAdmittedConfigurationsRun: both sides of the bound on MAX_FRAME. -/
theorem test_meets_OnlyAdmittedConfigurationsRun : configAdmitted base = true ∧
    configAdmitted { base with cfg := { base.cfg with maxFrame := 25 } } = false := by decide
theorem test_meets_ResetAbandonsOperations :
    configAdmitted (waiting 1 (.rst true true)) = true ∧
      (waiting 1 (.rst true true)).sched = [.rst true true] := by decide
/-- Two states that differ in every unspecified element. -/
theorem test_meets_UnspecifiedStateUnread :
    SameSpecified base { base with cursorBuf := [(3, 0x41#8)], cTxframe := ⟨1, [0x00#8]⟩, cTxtimer := 7 } ∧
    base.cursorBuf ≠ [(3, 0x41#8)] :=
  ⟨⟨rfl, by decide, by decide⟩, by decide⟩
/-- An invariant state with a message pending and a frame offered, that takes a step. -/
theorem test_meets_StepKeepsInvariant :
    Inv { waiting 1 .chanC with rxPend := some ⟨1, 20, 0, []⟩ } ∧
    (nextOf (step { waiting 1 .chanC with rxPend := some ⟨1, 20, 0, []⟩ })).isSome = true :=
  ⟨⟨by decide, by decide, by decide, by decide⟩, by decide⟩
theorem test_meets_StepNeverStops :
    configAdmitted (asked base ⟨0x00000005#32, 0#32, []⟩) = true ∧
    Inv (asked base ⟨0x00000005#32, 0#32, []⟩) ∧ RequestsComplete (asked base ⟨0x00000005#32, 0#32, []⟩) :=
  ⟨by decide, ⟨by decide, by decide, by decide, by decide⟩, by decide⟩

end Sys2Proof.Tests
end

section
/-! The outcomes of an instruction, of a fetch and of a step, and R7's bounds as a proposition. -/

namespace Sys2Proof.Machine

/-! An instruction answers a next state, or is RX_DELIM with CURSOR_IDX out of range. -/

theorem withBuf_next (o : Operands) (s : State) (rule : State → State) : ∃ t, withBuf o s rule = .next t := by
  rcases withBuf_cases o s rule with ⟨-, h⟩ | ⟨-, -, h⟩ | ⟨-, -, h⟩ <;> exact ⟨_, h⟩

theorem withPayload_next (o : Operands) (s : State) (rule : State → State) :
    ∃ t, withPayload o s rule = .next t :=
  withBuf_next o s _

theorem execRxData_next (b : Byte) (s : State) : ∃ t, execRxData b s = .next t := by
  cases hr : readyR s with
  | false => exact ⟨s, by simp [execRxData, hr]⟩
  | true =>
    by_cases hi : s.cursorIdx < s.cfg.cursorCap - 1
    · exact ⟨_, execRxData_store hr hi b⟩
    · exact ⟨_, execRxData_overflow hr hi b⟩

/-- R40, R161: the one fault of RX_DELIM is the first read beyond CURSOR_CAP. -/
theorem execRxDelim_cases (s : State) :
    (∃ t, execRxDelim s = .next t) ∨
    (s.cfg.cursorCap < s.cursorIdx ∧ execRxDelim s = .fault (.curReadOutOfRange s.cfg.cursorCap)) := by
  cases hr : readyR s with
  | false => exact .inl ⟨s, by simp [execRxDelim, hr]⟩
  | true =>
    by_cases h0 : s.cursorIdx = 0
    · exact .inl ⟨emitR .malformed s, by simp [execRxDelim, hr, h0]⟩
    · rcases Nat.lt_or_ge s.cfg.cursorCap s.cursorIdx with hi | hi
      · exact .inr ⟨hi, by simp [execRxDelim, hr, h0, cursorBytes_of_gt hi]⟩
      · exact .inl ⟨_, execRxDelim_of_le hr h0 hi⟩

/-- No instruction is refused, and only RX_DELIM can fault. -/
theorem exec_cases (i : Instr) (s : State) :
    (∃ t, exec i s = .next t) ∨
    (i = .rxDelim ∧ s.cfg.cursorCap < s.cursorIdx ∧
      exec i s = .fault (.curReadOutOfRange s.cfg.cursorCap)) := by
  cases i with
  | encode o => exact .inl (withBuf_next o s _)
  | decode o => exact .inl (withBuf_next o s _)
  | chksum o => exact .inl (withBuf_next o s _)
  | chkverify o => exact .inl (withBuf_next o s _)
  | build o => exact .inl (withPayload_next o s _)
  | parse o => exact .inl (withBuf_next o s _)
  | send o => exact .inl (withPayload_next o s _)
  | rxDelim => exact (execRxDelim_cases s).imp_right fun h => ⟨rfl, h⟩
  | rxData b => exact .inl (execRxData_next b s)
  | codeTerm => exact .inl ⟨_, rfl⟩
  | codeRun c => exact .inl ⟨_, rfl⟩
  | codeFull => exact .inl ⟨_, rfl⟩

/-! A fetch hands over an instruction, a next state, or the refusal of an item that is no request. -/

/-- What a fetch can come to. -/
inductive FetchCase (f : Fetched) : Prop where
  | run (i : Instr) (t : State) (hf : f = .run i t)
  | next (t : State) (hf : f = .answer (.next t))
  | notARequest (hf : f = .answer (.refused .notARequest))

theorem fetchRequest_fetchCase (r : Request) (s : State) : FetchCase (fetchRequest r s) := by
  rcases fetchRequest_cases r s with ⟨i, -, h⟩ | ⟨-, h⟩ | ⟨-, h⟩
  · exact .run i s h
  · exact .next _ h
  · exact .notARequest h

theorem fetchC_fetchCase (s : State) : FetchCase (fetchC s) := by
  cases hp : s.cPhase with
  | txWait => exact .next _ (fetchC_wait hp)
  | idle =>
    cases hr : readyC s with
    | false => exact .next s (fetchC_pending hp hr)
    | true =>
      cases hq : s.cReq with
      | nil => exact .next s (fetchC_empty hr hq)
      | cons r rest => exact fetchC_request hr hq ▸ fetchRequest_fetchCase r _

theorem fetchR_fetchCase (s : State) : FetchCase (fetchR s) := by
  cases hr : readyR s with
  | false => exact .next s (fetchR_busy hr)
  | true =>
    cases hq : s.rx with
    | nil => exact .next s (fetchR_empty hr hq)
    | cons b rest => exact .run _ _ (fetchR_byte hr hq)

theorem fetchCode_fetchCase (s : State) : FetchCase (fetchCode s) := by
  cases ht : s.codec.term with
  | true => exact .next s (fetchCode_stopped (.inl ht))
  | false =>
    cases hq : s.codec.rest with
    | nil => exact .next s (fetchCode_stopped (.inr hq))
    | cons c rest => exact .run _ _ (fetchCode_byte ht hq)

theorem fetch_fetchCase (m : Move) (s : State) : FetchCase (fetch m s) := by
  cases m with
  | chanC => exact fetchC_fetchCase s
  | chanR => exact fetchR_fetchCase s
  | codeByte => exact fetchCode_fetchCase s
  | txAccept => exact .next _ rfl
  | rspTake => exact .next _ rfl
  | msgTake => exact .next _ rfl
  | cfgBoardId v also => exact .next _ rfl
  | rst midC midR => exact .next _ rfl

/-! The configuration (R7). -/

theorem paramsAdmitted_iff (p : Params) :
    paramsAdmitted p = true ↔
      p.maxPayload ≤ 255 ∧ p.maxPayload + 6 + (p.maxPayload + 3) / 254 ≤ p.maxFrame ∧
        2 ≤ p.cursorCap ∧ p.maxFrame ≤ p.bufMax ∧ p.maxPayload + 4 ≤ p.bufMax ∧ p.bufMax ≤ 65000 := by
  simp [paramsAdmitted, and_assoc]

theorem configAdmitted_iff (s : State) :
    configAdmitted s = true ↔
      paramsAdmitted s.cfg = true ∧ s.boardId ≤ 2047 ∧ ∀ v ∈ s.boardIdAlso, v ≤ 2047 := by
  simp [configAdmitted, and_assoc]

theorem step_not_admitted {s : State} (h : configAdmitted s = false) :
    step s = .refused .configNotAdmitted :=
  if_pos h

/-- A step in an admitted configuration refuses nothing but an item that is no request. -/
theorem step_refused_admitted {s : State} (ha : configAdmitted s = true) {r : Refusal}
    (h : step s = .refused r) : r = .notARequest := by
  cases hs : s.sched with
  | nil => cases (step_idle ha hs).symm.trans h
  | cons m ms =>
    cases fetch_fetchCase m { s with sched := ms } with
    | run i t hf =>
      have he : exec i t = .refused r := (step_run ha hs hf).symm.trans h
      rcases exec_cases i t with ⟨u, hu⟩ | ⟨-, -, hu⟩ <;> cases hu.symm.trans he
    | next t hf => cases (step_answer ha hs hf).symm.trans h
    | notARequest hf =>
      cases (step_answer ha hs hf).symm.trans h
      rfl

theorem step_ne_configNotAdmitted_iff (s : State) :
    step s ≠ .refused .configNotAdmitted ↔ configAdmitted s = true := by
  constructor
  · intro h
    by_contra ha
    exact h (step_not_admitted (Bool.eq_false_iff.2 ha))
  · intro ha h
    cases step_refused_admitted ha h

/-- Settles O54: `step` tests the configuration first, and nothing it runs after that refuses for it. -/
theorem onlyAdmittedConfigurationsRun : Obligations.OnlyAdmittedConfigurationsRun := by
  intro s
  rw [step_ne_configNotAdmitted_iff, configAdmitted_iff, paramsAdmitted_iff]
  simp only [and_assoc]

end Sys2Proof.Machine
end

section
/-! What decodes is well formed, a step runs it (R60, R61, R70, R71), and the cases of the receive steps that
Sys2Proof/Laws/Ops.lean leaves out (R160, R161, R166). -/

namespace Sys2Proof.Machine

theorem reqOperands_wf {r : Request} (h : requestComplete r = true) : (reqOperands r).wf = true := by
  have hl : r.buf.length = (reqBlen r).toNat := by simpa [requestComplete] using h
  have hb : (reqBlen r).toNat < 2 ^ 16 := (reqBlen r).isLt
  simp only [Operands.wf, reqOperands, hl, decide_eq_true_eq]
  exact hb

theorem opInstr_wf {op : BitVec 4} {o : Operands} {i : Instr} (ho : o.wf = true) (h : opInstr op o = some i) :
    i.wf = true := by
  unfold opInstr at h
  repeat' split at h
  all_goals cases h
  all_goals exact ho

theorem decodeRequest_wf {r : Request} {i : Instr} (h : decodeRequest r = .ok i) : i.wf = true := by
  cases hc : requestComplete r with
  | false => cases (decodeRequest_incomplete hc).symm.trans h
  | true =>
    unfold decodeRequest at h
    split at h
    · cases h
    · split at h
      · cases h
      · split at h
        · rename_i hi
          cases h
          exact opInstr_wf (reqOperands_wf hc) hi
        · cases h

theorem decodeStreamByte_wf (b : Byte) : (decodeStreamByte b).wf = true := by
  by_cases hb : b = Config.DELIM
  · simp [decodeStreamByte, hb, Instr.wf]
  · simpa only [decodeStreamByte, if_neg hb, Instr.wf, decide_eq_true_eq] using hb

theorem decodeCodeByte_wf (c : Byte) : (decodeCodeByte c).wf = true := by
  by_cases h0 : c = Config.DELIM
  · simp [decodeCodeByte, h0, Instr.wf]
  · by_cases hf : c = Config.CODE_FULL
    · subst hf
      rfl
    · simp only [decodeCodeByte, if_neg h0, if_neg hf, Instr.wf]
      simpa using ⟨h0, hf⟩

/-! The receive steps. -/

theorem execRxDelim_busy {s : State} (h : readyR s = false) : execRxDelim s = .next s := by
  simp [execRxDelim, h]

theorem execRxDelim_empty {s : State} (h : readyR s = true) (h0 : s.cursorIdx = 0) :
    execRxDelim s = .next (emitR .malformed s) := by
  simp [execRxDelim, h, h0]

theorem execRxDelim_of_gt {s : State} (h : readyR s = true) (hi : s.cfg.cursorCap < s.cursorIdx) :
    execRxDelim s = .fault (.curReadOutOfRange s.cfg.cursorCap) := by
  have h0 : s.cursorIdx ≠ 0 := by omega
  simp [execRxDelim, h, h0, cursorBytes_of_gt hi]

theorem execRxData_busy {s : State} (h : readyR s = false) (b : Byte) : execRxData b s = .next s := by
  simp [execRxData, h]

/-! Statements about the fetch, the board id and reset. -/

/-- Settles O1: the fetch of each of the three positions hands its decoded item to `exec`. -/
theorem stepRunsDecodedInstruction : Obligations.StepRunsDecodedInstruction := by
  intro s m ms ha hs
  refine ⟨?_, ?_, ?_⟩
  · rintro r rest i rfl hr hq hd
    have hf : fetch .chanC { s with sched := ms } = .run i { s with sched := ms, cReq := rest } := by
      refine (fetchC_request (s := { s with sched := ms }) hr hq).trans ?_
      simp only [fetchRequest, hd]
    exact ⟨decodeRequest_wf hd, step_run ha hs hf⟩
  · rintro b rest rfl hr hq
    exact ⟨decodeStreamByte_wf b, step_run ha hs (fetchR_byte (s := { s with sched := ms }) hr hq)⟩
  · rintro c rest rfl ht hq
    exact ⟨decodeCodeByte_wf c, step_run ha hs (fetchCode_byte (s := { s with sched := ms }) ht hq)⟩

/-- Settles O31: the draw is among the values held, and is the one value after a change to one value. -/
theorem boardIdReadIsHeld : Obligations.BoardIdReadIsHeld := by
  refine ⟨fun s => ⟨drawBoardId_mem _ s, drawBoardId_mem _ s⟩, fun s v ms ha hs => ?_⟩
  exact ⟨setBoardId v [] { s with sched := ms }, step_answer ha hs rfl, drawBoardId_stable rfl _,
    drawBoardId_stable rfl _⟩

/-- Settles O55. -/
theorem resetValues : Obligations.ResetValues := ⟨rfl, rfl, rfl, rfl, rfl⟩

end Sys2Proof.Machine
end

section
/-! States that differ in what the spec leaves unspecified step alike (R23, R26, R30). -/

namespace Sys2Proof.Machine

open Sys2Proof.Safety

/-- `s` with other contents in the elements that can be unspecified. -/
def State.withUnspecified (s : State) (m : Memory) (f : Frame) (n : Nat) : State :=
  { s with cursorBuf := m, cTxframe := f, cTxtimer := n }

/-- The two contents agree where the spec gives `s` a value. -/
def AgreeAt (s : State) (m : Memory) (f : Frame) (n : Nat) : Prop :=
  (∀ i < s.cursorIdx, Memory.read s.cursorBuf i = Memory.read m i) ∧
    (s.cPhase = .txWait → s.cTxframe = f ∧ s.cTxtimer = n)

theorem sameSpecified_withUnspecified {s : State} {m : Memory} {f : Frame} {n : Nat} (h : AgreeAt s m f n) :
    SameSpecified s (s.withUnspecified m f n) :=
  ⟨rfl, h⟩

theorem exists_withUnspecified {s t : State} (h : SameSpecified s t) :
    ∃ m f n, t = s.withUnspecified m f n ∧ AgreeAt s m f n :=
  ⟨_, _, _, h⟩

theorem sameSpecified_refl (s : State) : SameSpecified s s := ⟨rfl, fun _ _ => rfl, fun _ => ⟨rfl, rfl⟩⟩

/-- The update neither reads nor writes the elements that can be unspecified, and makes none of them
specified. -/
def LeavesUnspecified (g : State → State) : Prop :=
  ∀ s m f n, g (s.withUnspecified m f n) = (g s).withUnspecified m f n ∧
    (g s).cursorIdx ≤ s.cursorIdx ∧ ((g s).cPhase = .txWait → s.cPhase = .txWait)

theorem LeavesUnspecified.comp {g h : State → State} (hg : LeavesUnspecified g) (hh : LeavesUnspecified h) :
    LeavesUnspecified fun s => g (h s) := by
  intro s m f n
  obtain ⟨hh, hhi, hhp⟩ := hh s m f n
  obtain ⟨hg, hgi, hgp⟩ := hg (h s) m f n
  exact ⟨by simp only [hh, hg], hgi.trans hhi, hhp ∘ hgp⟩

theorem LeavesUnspecified.map {g : State → State} (hg : LeavesUnspecified g) {s t : State} (h : SameSpecified s t) :
    SameSpecified (g s) (g t) := by
  obtain ⟨m, f, n, rfl, hb, hw⟩ := exists_withUnspecified h
  obtain ⟨hc, hi, hp⟩ := hg s m f n
  have hk : g s = (g s).withUnspecified s.cursorBuf s.cTxframe s.cTxtimer := (hg s _ _ _).1
  have hbuf : (g s).cursorBuf = s.cursorBuf := (congrArg State.cursorBuf hk).trans rfl
  have hfrm : (g s).cTxframe = s.cTxframe := (congrArg State.cTxframe hk).trans rfl
  have htmr : (g s).cTxtimer = s.cTxtimer := (congrArg State.cTxtimer hk).trans rfl
  rw [hc]
  refine sameSpecified_withUnspecified ⟨fun i hlt => ?_, fun hwait => ?_⟩
  · rw [hbuf]
    exact hb i (by omega)
  · rw [hfrm, htmr]
    exact hw (hp hwait)

/-! The shared updates. -/

theorem leavesUnspecified_respond (r : RspFields) : LeavesUnspecified (respond r) :=
  fun _ _ _ _ => ⟨rfl, le_rfl, id⟩

theorem leavesUnspecified_emitC (e : Event) : LeavesUnspecified (emitC e) := fun _ _ _ _ => ⟨rfl, le_rfl, id⟩

theorem leavesUnspecified_emitR (e : Event) : LeavesUnspecified (emitR e) := fun _ _ _ _ => ⟨rfl, le_rfl, id⟩

theorem leavesUnspecified_setBoardId (v : Nat) (l : List Nat) : LeavesUnspecified (setBoardId v l) :=
  fun _ _ _ _ => ⟨rfl, le_rfl, id⟩

theorem leavesUnspecified_setSched (l : List Move) : LeavesUnspecified fun s => { s with sched := l } :=
  fun _ _ _ _ => ⟨rfl, le_rfl, id⟩

theorem leavesUnspecified_setCReq (l : List Request) : LeavesUnspecified fun s => { s with cReq := l } :=
  fun _ _ _ _ => ⟨rfl, le_rfl, id⟩

theorem leavesUnspecified_setRx (l : List Byte) : LeavesUnspecified fun s => { s with rx := l } :=
  fun _ _ _ _ => ⟨rfl, le_rfl, id⟩

theorem leavesUnspecified_setCodec (g : DecWork → DecWork) :
    LeavesUnspecified fun s => { s with codec := g s.codec } :=
  fun _ _ _ _ => ⟨rfl, le_rfl, id⟩

theorem leavesUnspecified_clearCursor : LeavesUnspecified fun s => { s with cursorIdx := 0 } :=
  fun _ _ _ _ => ⟨rfl, Nat.zero_le _, id⟩

theorem leavesUnspecified_afterBoardIdC : LeavesUnspecified afterBoardIdC := by
  refine fun s m f n => ⟨?_, by simp, by simp⟩
  unfold afterBoardIdC State.withUnspecified
  split <;> rfl

theorem leavesUnspecified_afterBoardIdR : LeavesUnspecified afterBoardIdR := by
  refine fun s m f n => ⟨?_, by simp, by simp⟩
  unfold afterBoardIdR State.withUnspecified
  split <;> rfl

theorem leavesUnspecified_takeRsp : LeavesUnspecified takeRsp := by
  intro s m f n
  have hr : (s.withUnspecified m f n).cRsp = s.cRsp := rfl
  unfold takeRsp
  rw [hr]
  split <;> exact ⟨rfl, le_rfl, id⟩

theorem leavesUnspecified_takeMsg : LeavesUnspecified takeMsg := by
  intro s m f n
  have hr : (s.withUnspecified m f n).rxPend = s.rxPend := rfl
  unfold takeMsg
  rw [hr]
  split <;> exact ⟨rfl, le_rfl, id⟩

theorem leavesUnspecified_txOverflow : LeavesUnspecified txOverflow :=
  (leavesUnspecified_respond _).comp (leavesUnspecified_emitC _)

/-! Channel C. -/

theorem leavesUnspecified_chkverifyRule (o : Operands) : LeavesUnspecified (chkverifyRule o) := by
  intro s m f n
  unfold chkverifyRule
  split
  · exact leavesUnspecified_respond _ s m f n
  · simp only
    split <;> exact leavesUnspecified_respond _ s m f n

theorem leavesUnspecified_buildRule (o : Operands) : LeavesUnspecified (buildRule o) := by
  intro s m f n
  unfold buildRule State.withUnspecified
  simp only
  split <;> exact ⟨rfl, le_rfl, id⟩

theorem leavesUnspecified_parseRule (o : Operands) : LeavesUnspecified (parseRule o) := by
  intro s m f n
  have hb : boardIdC (s.withUnspecified m f n) = boardIdC s := rfl
  unfold parseRule
  rw [hb]
  split <;> exact (leavesUnspecified_respond _).comp leavesUnspecified_afterBoardIdC s m f n

/-- SEND writes C_TXFRAME and C_TXTIMER before anything reads them. -/
theorem sameSpecified_offerFrame {s t : State} (h : SameSpecified s t) (b : List Byte) :
    SameSpecified (offerFrame b s) (offerFrame b t) := by
  obtain ⟨m, f, n, rfl, hb, -⟩ := exists_withUnspecified h
  exact ⟨rfl, hb, fun _ => ⟨rfl, rfl⟩⟩

theorem sameSpecified_sendRule {s t : State} (h : SameSpecified s t) (o : Operands) :
    SameSpecified (sendRule o s) (sendRule o t) := by
  have hc : t.cfg = s.cfg := by rw [h.1]
  unfold sendRule
  rw [hc]
  split
  · exact leavesUnspecified_txOverflow.map h
  · simp only
    split
    · exact leavesUnspecified_txOverflow.map h
    · exact sameSpecified_offerFrame h _

/-- The operand contract is decided by what is specified. -/
theorem sameOutcome_withBuf {s t : State} (h : SameSpecified s t) {rule : State → State}
    (hrule : SameSpecified (rule s) (rule t)) (o : Operands) :
    SameOutcome (withBuf o s rule) (withBuf o t rule) := by
  have hr : readyC t = readyC s := by rw [h.1]; rfl
  have hl : bufTooLong t o = bufTooLong s o := by rw [h.1]; rfl
  unfold withBuf
  rw [hr, hl]
  split
  · exact h
  · split
    · exact (leavesUnspecified_respond _).map h
    · exact hrule

theorem sameOutcome_withPayload {s t : State} (h : SameSpecified s t) {rule : State → State}
    (hrule : SameSpecified (rule s) (rule t)) (o : Operands) :
    SameOutcome (withPayload o s rule) (withPayload o t rule) := by
  refine sameOutcome_withBuf h ?_ o
  split
  · exact (leavesUnspecified_respond _).map h
  · exact hrule

theorem sameSpecified_txHold {s t : State} (h : SameSpecified s t) (hp : s.cPhase = .txWait) :
    SameSpecified (txHold s) (txHold t) := by
  obtain ⟨m, f, n, rfl, hb, hw⟩ := exists_withUnspecified h
  obtain ⟨rfl, rfl⟩ := hw hp
  have hr : timerRuns (s.withUnspecified m s.cTxframe s.cTxtimer) = timerRuns s := rfl
  unfold txHold
  rw [hr]
  split
  · exact ⟨rfl, hb, fun _ => ⟨rfl, rfl⟩⟩
  · exact ⟨rfl, hb, fun _ => ⟨rfl, rfl⟩⟩

theorem sameSpecified_txAccept {s t : State} (h : SameSpecified s t) :
    SameSpecified (txAccept s) (txAccept t) := by
  have hp : t.cPhase = s.cPhase := by rw [h.1]
  unfold txAccept
  rw [hp]
  cases hs : s.cPhase with
  | idle => exact h
  | txWait =>
    obtain ⟨m, f, n, rfl, hb, hw⟩ := exists_withUnspecified h
    obtain ⟨rfl, rfl⟩ := hw hs
    exact ⟨rfl, hb, fun _ => ⟨rfl, rfl⟩⟩

/-! Channel R. -/

theorem leavesUnspecified_rxFrame (l : List Byte) : LeavesUnspecified (rxFrame l) := by
  intro s m f n
  have hb : boardIdR (s.withUnspecified m f n) = boardIdR s := rfl
  have hc : (s.withUnspecified m f n).cfg = s.cfg := rfl
  unfold rxFrame
  rw [hb, hc]
  simp only
  split
  · exact leavesUnspecified_emitR _ s m f n
  · split
    · exact leavesUnspecified_emitR _ s m f n
    · split
      · have hpend (r : Parsed) : LeavesUnspecified fun u => { u with rxPend := some (parsedMsg r) } :=
          fun _ _ _ _ => ⟨rfl, le_rfl, id⟩
        exact (hpend _).comp leavesUnspecified_afterBoardIdR s m f n
      · exact (leavesUnspecified_emitR _).comp leavesUnspecified_afterBoardIdR s m f n

/-- RX_DELIM reads the cursor below CURSOR_IDX only. -/
theorem cursorBytes_eq_of_sameSpecified {s t : State} (h : SameSpecified s t) {n : Nat} (hn : n ≤ s.cursorIdx) :
    cursorBytes s n = cursorBytes t n := by
  have hc : t.cfg = s.cfg := by rw [h.1]
  rcases Nat.lt_or_ge s.cfg.cursorCap n with hgt | hle
  · rw [cursorBytes_of_gt hgt, cursorBytes_of_gt (hc ▸ hgt), hc]
  · rw [cursorBytes_of_le hle, cursorBytes_of_le (hc ▸ hle)]
    congr 1
    refine List.map_congr_left fun i hi => h.2.1 i ?_
    have := List.mem_range.1 hi
    omega

theorem sameOutcome_execRxDelim {s t : State} (h : SameSpecified s t) :
    SameOutcome (execRxDelim s) (execRxDelim t) := by
  have hr : readyR t = readyR s := by rw [h.1]; rfl
  have hi : t.cursorIdx = s.cursorIdx := by rw [h.1]
  unfold execRxDelim
  rw [hr, hi, ← cursorBytes_eq_of_sameSpecified h le_rfl]
  split
  · exact h
  · split
    · exact (leavesUnspecified_emitR _).map h
    · split
      · exact ((leavesUnspecified_rxFrame _).comp leavesUnspecified_clearCursor).map h
      · rfl

theorem sameSpecified_store {s t : State} (h : SameSpecified s t) {b : Byte} (hb : b ≠ 0x00#8) :
    SameSpecified { s with cursorBuf := Memory.write s.cursorBuf s.cursorIdx b, cursorIdx := s.cursorIdx + 1 }
      { t with cursorBuf := Memory.write t.cursorBuf t.cursorIdx b, cursorIdx := t.cursorIdx + 1 } := by
  obtain ⟨m, f, n, rfl, hm, hw⟩ := exists_withUnspecified h
  refine ⟨rfl, fun i hi => ?_, hw⟩
  simp only [State.withUnspecified, Memory.read_write_of_ne (v := b) hb]
  by_cases he : s.cursorIdx = i
  · rw [if_pos he, if_pos he]
  · rw [if_neg he, if_neg he]
    exact hm i (by simp only at hi; omega)

theorem sameOutcome_execRxData {s t : State} (h : SameSpecified s t) {b : Byte} (hb : b ≠ 0x00#8) :
    SameOutcome (execRxData b s) (execRxData b t) := by
  have hr : readyR t = readyR s := by rw [h.1]; rfl
  have hi : t.cursorIdx = s.cursorIdx := by rw [h.1]
  have hc : t.cfg = s.cfg := by rw [h.1]
  cases hs : readyR s with
  | false =>
    rw [execRxData_busy hs, execRxData_busy (hr.trans hs)]
    exact h
  | true =>
    by_cases hlt : s.cursorIdx < s.cfg.cursorCap - 1
    · rw [execRxData_store hs hlt, execRxData_store (hr.trans hs) (by rwa [hi, hc])]
      exact sameSpecified_store h hb
    · rw [execRxData_overflow hs hlt, execRxData_overflow (hr.trans hs) (by rwa [hi, hc])]
      exact ((leavesUnspecified_emitR _).comp leavesUnspecified_clearCursor).map h

/-! The whole step. -/

/-- An instruction that decodes runs alike. -/
theorem sameOutcome_exec {s t : State} (h : SameSpecified s t) {i : Instr} (hi : i.wf = true) :
    SameOutcome (exec i s) (exec i t) := by
  cases i with
  | encode o => exact sameOutcome_withBuf h ((leavesUnspecified_respond _).map h) o
  | decode o => exact sameOutcome_withBuf h ((leavesUnspecified_respond _).map h) o
  | chksum o => exact sameOutcome_withBuf h ((leavesUnspecified_respond _).map h) o
  | chkverify o => exact sameOutcome_withBuf h ((leavesUnspecified_chkverifyRule o).map h) o
  | build o => exact sameOutcome_withPayload h ((leavesUnspecified_buildRule o).map h) o
  | parse o => exact sameOutcome_withBuf h ((leavesUnspecified_parseRule o).map h) o
  | send o => exact sameOutcome_withPayload h (sameSpecified_sendRule h o) o
  | rxDelim => exact sameOutcome_execRxDelim h
  | rxData b => exact sameOutcome_execRxData h (by simpa [Instr.wf] using hi)
  | codeTerm => exact (leavesUnspecified_setCodec blockTerm).map h
  | codeRun c => exact (leavesUnspecified_setCodec fun w => unlessStopped w (blockRun c)).map h
  | codeFull => exact (leavesUnspecified_setCodec fun w => unlessStopped w blockFull).map h

/-- What a fetch comes to is run or answered. -/
def Fetched.outcome : Fetched → Host.Outcome State Fault Refusal
  | .run i s => Sys2Proof.Machine.exec i s
  | .answer o => o

theorem sameOutcome_fetchRequest {s t : State} (h : SameSpecified s t) (r : Request) :
    SameOutcome (fetchRequest r s).outcome (fetchRequest r t).outcome := by
  unfold fetchRequest
  split
  · rename_i hd
    exact sameOutcome_exec h (decodeRequest_wf hd)
  · exact (leavesUnspecified_respond _).map h
  · exact (leavesUnspecified_respond _).map h
  · rfl

theorem sameOutcome_fetchC {s t : State} (h : SameSpecified s t) :
    SameOutcome (fetchC s).outcome (fetchC t).outcome := by
  have hp : t.cPhase = s.cPhase := by rw [h.1]
  have hr : readyC t = readyC s := by rw [h.1]; rfl
  have hq : t.cReq = s.cReq := by rw [h.1]
  cases hs : s.cPhase with
  | txWait =>
    rw [fetchC_wait hs, fetchC_wait (hp.trans hs)]
    exact sameSpecified_txHold h hs
  | idle =>
    cases hrs : readyC s with
    | false =>
      rw [fetchC_pending hs hrs, fetchC_pending (hp.trans hs) (hr.trans hrs)]
      exact h
    | true =>
      cases hqs : s.cReq with
      | nil =>
        rw [fetchC_empty hrs hqs, fetchC_empty (hr.trans hrs) (hq.trans hqs)]
        exact h
      | cons r rest =>
        rw [fetchC_request hrs hqs, fetchC_request (hr.trans hrs) (hq.trans hqs)]
        refine sameOutcome_fetchRequest ?_ r
        exact (leavesUnspecified_setCReq rest).map h

theorem sameOutcome_fetchR {s t : State} (h : SameSpecified s t) :
    SameOutcome (fetchR s).outcome (fetchR t).outcome := by
  have hr : readyR t = readyR s := by rw [h.1]; rfl
  have hq : t.rx = s.rx := by rw [h.1]
  unfold fetchR
  rw [hr, hq]
  split
  · exact h
  · split
    · exact h
    · rename_i b rest _
      refine sameOutcome_exec ?_ (decodeStreamByte_wf b)
      exact (leavesUnspecified_setRx rest).map h

theorem sameOutcome_fetchCode {s t : State} (h : SameSpecified s t) :
    SameOutcome (fetchCode s).outcome (fetchCode t).outcome := by
  have hc : t.codec = s.codec := by rw [h.1]
  unfold fetchCode
  rw [hc]
  split
  · exact h
  · split
    · exact h
    · rename_i c rest _
      refine sameOutcome_exec ?_ (decodeCodeByte_wf c)
      exact (leavesUnspecified_setCodec fun _ => { s.codec with rest := rest }).map h

/-- Reset overwrites what is unspecified (log entry 17). -/
theorem sameSpecified_reset {s t : State} (h : SameSpecified s t) (midC midR : Bool) :
    SameSpecified (resetMachine (abandon midC midR s)) (resetMachine (abandon midC midR t)) := by
  obtain ⟨m, f, n, rfl, -, -⟩ := exists_withUnspecified h
  exact sameSpecified_refl _

theorem sameOutcome_fetch {s t : State} (h : SameSpecified s t) (m : Move) :
    SameOutcome (fetch m s).outcome (fetch m t).outcome := by
  cases m with
  | chanC => exact sameOutcome_fetchC h
  | chanR => exact sameOutcome_fetchR h
  | codeByte => exact sameOutcome_fetchCode h
  | txAccept => exact sameSpecified_txAccept h
  | rspTake => exact leavesUnspecified_takeRsp.map h
  | msgTake => exact leavesUnspecified_takeMsg.map h
  | cfgBoardId v also => exact (leavesUnspecified_setBoardId v also).map h
  | rst midC midR => exact sameSpecified_reset h midC midR

theorem step_eq_outcome {s : State} (ha : configAdmitted s = true) {m : Move} {ms : List Move}
    (hs : s.sched = m :: ms) : step s = (fetch m { s with sched := ms }).outcome := by
  cases hf : fetch m { s with sched := ms } with
  | run i t => exact step_run ha hs hf
  | answer o => exact step_answer ha hs hf

/-- Settles O57: the states differ by unspecified contents alone, and the configuration test, the choice of
the move, its fetch and every instruction keep it so. -/
theorem unspecifiedStateUnread : Obligations.UnspecifiedStateUnread := by
  intro s t h
  have hc : configAdmitted t = configAdmitted s := by rw [h.1]; rfl
  have hq : t.sched = s.sched := by rw [h.1]
  cases ha : configAdmitted s with
  | false =>
    rw [step_not_admitted ha, step_not_admitted (hc.trans ha)]
    rfl
  | true =>
    cases hs : s.sched with
    | nil =>
      rw [step_idle ha hs, step_idle (hc.trans ha) (hq.trans hs)]
      exact h
    | cons m ms =>
      rw [step_eq_outcome ha hs, step_eq_outcome (hc.trans ha) (hq.trans hs)]
      refine sameOutcome_fetch ?_ m
      exact (leavesUnspecified_setSched ms).map h

end Sys2Proof.Machine
end

section
/-! Bounds the invariant needs: the codec's lengths, what a parsed packet and a packed response hold
(R63, R104, R105, R107, R143). -/

namespace Sys2Proof.Machine

/-! The encoder. -/

theorem ofNat_length_succ_ne_zero {lits : List Byte} (h : lits.length < 254) :
    BitVec.ofNat 8 (lits.length + 1) ≠ 0x00#8 := by
  intro he
  have := congrArg BitVec.toNat he
  simp only [BitVec.toNat_ofNat] at this
  omega

theorem zero_not_mem_encodeBlocks (x : List Byte) : ∀ lits : List Byte, lits.length < 254 → 0x00#8 ∉ lits →
    0x00#8 ∉ encodeBlocks lits x := by
  induction x with
  | nil =>
    intro lits hl h0
    simp [encodeBlocks, h0, (ofNat_length_succ_ne_zero hl).symm]
  | cons b x ih =>
    intro lits hl h0
    have hnil : 0x00#8 ∉ encodeBlocks [] x := ih [] (by simp) (by simp)
    have hcode := (ofNat_length_succ_ne_zero hl).symm
    unfold encodeBlocks
    split
    · simp [h0, hnil, hcode]
    · rename_i hb
      split
      · split <;> simp [h0, hnil, Ne.symm hb]
      · exact ih _ (by simp; omega) (by simp [h0, Ne.symm hb])

/-- R104. -/
theorem zero_not_mem_cobsEncode (x : List Byte) : 0x00#8 ∉ cobsEncode x := by
  rw [cobsEncode_eq_blocks]
  exact zero_not_mem_encodeBlocks x [] (by simp) (by simp)

theorem encodeBlocks_length_le (x : List Byte) : ∀ lits : List Byte, lits.length < 254 →
    (encodeBlocks lits x).length ≤ lits.length + x.length + 1 + (lits.length + x.length) / 254 := by
  induction x with
  | nil =>
    intro lits _
    simp [encodeBlocks]
  | cons b x ih =>
    intro lits hl
    have hnil := ih [] (by simp)
    simp only [List.length_nil] at hnil
    unfold encodeBlocks
    split
    · simp only [List.length_append, List.length_cons]
      omega
    · split
      · split <;> simp only [List.length_append, List.length_cons, List.length_nil] <;> omega
      · have h := ih (lits ++ [b]) (by simp; omega)
        simp only [List.length_append, List.length_cons, List.length_nil] at h ⊢
        omega

/-- R105, one byte looser than the exact bound. -/
theorem cobsEncode_length_le (x : List Byte) : (cobsEncode x).length ≤ x.length + 1 + x.length / 254 := by
  simpa [cobsEncode_eq_blocks] using encodeBlocks_length_le x [] (by simp)

/-! The decoder. -/

/-- A block's restored zero and literals are paid for by the code byte and the literals read, but for the
zero: the first block and one after a full block restore none. -/
theorem decodeStep_length_cons {w : DecWork} {c : Byte} {tl : List Byte} (ht : w.term = false)
    (hr : w.rest = c :: tl) :
    (decodeStep w).out.length + (decodeStep w).rest.length ≤
      w.out.length + tl.length + (if w.prev = 0xFF#8 then 0 else 1) := by
  rw [decodeStep_cons ht hr]
  by_cases hc : c = 0x00#8
  · simp [hc, decodeBlock_zero]
  · rw [decodeBlock_of_ne hc]
    simp only [blockLiterals, ne_eq, ite_not, List.length_append, List.length_take, List.length_drop]
    split <;> simp only [List.length_nil, List.length_cons] <;> omega

theorem decodeStep_length_le (w : DecWork) :
    (decodeStep w).out.length + (decodeStep w).rest.length ≤ w.out.length + w.rest.length := by
  by_cases hs : w.Stopped
  · rw [decodeStep_of_stopped hs]
  · obtain ⟨ht, hr⟩ := not_or.1 hs
    obtain ⟨c, tl, hr⟩ := List.exists_cons_of_ne_nil hr
    have h := decodeStep_length_cons (by simpa using ht) hr
    rw [hr, List.length_cons]
    split at h <;> omega

theorem decodeLoop_length_le (n : Nat) : ∀ w : DecWork,
    (decodeLoop n w).out.length + (decodeLoop n w).rest.length ≤ w.out.length + w.rest.length := by
  induction n with
  | zero => exact fun _ => le_rfl
  | succ n ih => exact fun w => (ih _).trans (decodeStep_length_le w)

/-- R107. -/
theorem cobsDecode_length_le (e : List Byte) : (cobsDecode e).out.length ≤ e.length - 1 := by
  cases e with
  | nil => simp [cobsDecode, decodeLoop, decodeResult, DecWork.start]
  | cons c tl =>
    have hfirst := decodeStep_length_cons (w := DecWork.start (c :: tl)) rfl rfl
    have hrest := decodeLoop_length_le tl.length (decodeStep (DecWork.start (c :: tl)))
    simp only [DecWork.start, List.length_nil, if_true] at hfirst
    simp only [cobsDecode, decodeResult, List.length_cons, decodeLoop, DecWork.start] at hrest ⊢
    omega

/-! Packets. -/

theorem pktBuild_length (id : BitVec 13) (cmd : BitVec 8) (p : List Byte) :
    (pktBuild id cmd p).length = p.length + 4 := by
  simp [pktBuild]

/-- R143: the length byte of an accepted packet counts its payload. -/
theorem pktParse_ok_length {d : List Byte} {bid : Nat} {r : Parsed} (h : pktParse d bid = .ok r) :
    r.len.toNat = r.payload.length ∧ r.payload.length + 4 = d.length := by
  unfold pktParse at h
  split at h
  · cases h
  · split at h
    · cases h
    · split at h
      · cases h
      · simp only at h
        split at h
        · cases h
        · cases h
          simp only [List.length_take, List.length_drop]
          omega

/-! Responses (R63). -/

theorem rspLen_packRsp (f : RspFields) : rspLen (packRsp f) = BitVec.ofNat 16 f.rbuf.length := by
  ext i hi
  have h : 16 + i < 32 ∧ ¬ 16 + i < 16 ∧ 8 ≤ 16 + i ∧ i < 32 := by omega
  simp [rspLen, packRsp, packRsp1, h, BitVec.getLsbD_of_ge, hi]

theorem rspStatus_packRsp (f : RspFields) : rspStatus (packRsp f) = statusCode f.status := by
  ext i hi
  have h : i < 4 ∧ i < 5 ∧ i < 6 ∧ i < 8 ∧ i < 16 ∧ i < 32 := by omega
  simp [rspStatus, packRsp, packRsp0, h]

theorem statusCode_le (st : Status) : (statusCode st).toNat ≤ 10 := by
  cases st <;> decide

theorem rspReservedClear_packRsp (f : RspFields) : rspReservedClear (packRsp f) = true := by
  have h7 : (packRsp f).rsp0.getLsbD 7 = false := by
    simp [packRsp, packRsp0]
  have h29 : (packRsp f).rsp0.extractLsb' 29 3 = 0#3 := by
    ext i hi
    have h : ¬ 29 + i < 4 ∧ ¬ 29 + i < 16 ∧ 29 + i < 32 ∧ 13 ≤ 29 + i - 16 ∧ 8 ≤ 29 + i - 8 ∧
        4 ≤ 29 + i ∧ 29 + i - 4 ≠ 0 ∧ 29 + i - 5 ≠ 0 ∧ 29 + i - 6 ≠ 0 := by omega
    simp [packRsp, packRsp0, h, BitVec.getLsbD_of_ge]
  have h8 : (packRsp f).rsp1.extractLsb' 8 8 = 0#8 := by
    ext i hi
    have h : 8 + i < 16 ∧ 8 + i < 32 ∧ 8 ≤ 8 + i := by omega
    simp [packRsp, packRsp1, h, BitVec.getLsbD_of_ge]
  have hst : (rspStatus (packRsp f)).toNat ≤ 10 := by
    rw [rspStatus_packRsp]
    exact statusCode_le f.status
  simp only [rspReservedClear, h7, h29, h8, hst, decide_true, Bool.and_self]

end Sys2Proof.Machine
end

section
/-! The invariant holds at reset and every step keeps it (R24, R40, R63, R69, R76). -/

namespace Sys2Proof.Machine

open Sys2Proof.Safety

/-- With nothing in the cursor, pending, offered or waiting, the invariant says nothing. -/
theorem inv_of_cleared {s : State} (hb : s.cursorBuf = []) (hi : s.cursorIdx = 0) (hm : s.rxPend = none)
    (hp : s.cPhase = .idle) (hr : s.cRsp = none) : Inv s where
  cursor := ⟨by rw [hb]; rfl, by simp [hb], by simp [hi], by simp [hi]⟩
  pend := by simp [PendOk, hm]
  wait := by simp [WaitOk, hp]
  rsp := by simp [RspOk, hr]

/-- Settles O58. -/
theorem invariantAtReset : Obligations.InvariantAtReset := inv_of_cleared rfl rfl rfl rfl rfl

/-! The shared updates. -/

theorem inv_respond {s : State} (h : Inv s) (hp : s.cPhase = .idle) {f : RspFields}
    (hf : f.rbuf.length < 2 ^ 16) : Inv (respond f s) where
  cursor := h.cursor
  pend := h.pend
  wait := by simp [WaitOk, hp]
  rsp := by
    simp only [RspOk, respond_cRsp, Option.mem_some_iff, forall_eq']
    exact ⟨rspReservedClear_packRsp f, by rw [rspLen_packRsp]; exact Nat.mod_eq_of_lt hf⟩

theorem inv_emitC {s : State} (h : Inv s) (e : Event) : Inv (emitC e s) := ⟨h.cursor, h.pend, h.wait, h.rsp⟩

theorem inv_emitR {s : State} (h : Inv s) (e : Event) : Inv (emitR e s) := ⟨h.cursor, h.pend, h.wait, h.rsp⟩

theorem inv_afterBoardIdC {s : State} (h : Inv s) : Inv (afterBoardIdC s) := by
  unfold afterBoardIdC
  split
  · exact h
  · exact ⟨h.cursor, h.pend, h.wait, h.rsp⟩

theorem inv_afterBoardIdR {s : State} (h : Inv s) : Inv (afterBoardIdR s) := by
  unfold afterBoardIdR
  split
  · exact h
  · exact ⟨h.cursor, h.pend, h.wait, h.rsp⟩

theorem inv_clearCursor {s : State} (h : Inv s) : Inv { s with cursorIdx := 0 } := by
  obtain ⟨hwf, hcells, -, -⟩ := h.cursor
  exact ⟨⟨hwf, hcells, Nat.zero_le _, by simp⟩, h.pend, h.wait, h.rsp⟩

theorem inv_takeRsp {s : State} (h : Inv s) : Inv (takeRsp s) := by
  unfold takeRsp
  split
  · refine ⟨h.cursor, h.pend, fun hp => ?_, by simp [RspOk]⟩
    obtain ⟨-, hf, ht⟩ := h.wait hp
    exact ⟨rfl, hf, ht⟩
  · exact h

theorem inv_takeMsg {s : State} (h : Inv s) : Inv (takeMsg s) := by
  unfold takeMsg
  split
  · exact ⟨h.cursor, by simp [PendOk], h.wait, h.rsp⟩
  · exact h

/-! Channel C. -/

/-- An operation keeps the invariant when its own rule does, from a ready channel and within BUF_MAX. -/
theorem inv_withBuf {s t : State} {o : Operands} {rule : State → State} (h : Inv s)
    (hrule : s.cPhase = .idle → s.cRsp = none → o.buf.length ≤ s.cfg.bufMax → Inv (rule s))
    (ht : withBuf o s rule = .next t) : Inv t := by
  rcases withBuf_cases o s rule with ⟨-, he⟩ | ⟨hr, -, he⟩ | ⟨hr, hl, he⟩ <;> cases he.symm.trans ht
  · exact h
  · exact inv_respond h ((readyC_iff s).1 hr).1 (by simp)
  · obtain ⟨hp, hn⟩ := (readyC_iff s).1 hr
    exact hrule hp hn hl

theorem inv_withPayload {s t : State} {o : Operands} {rule : State → State} (h : Inv s)
    (hrule : s.cPhase = .idle → s.cRsp = none → o.buf.length = o.len.toNat → Inv (rule s))
    (ht : withPayload o s rule = .next t) : Inv t := by
  rcases withPayload_cases o s rule with ⟨-, he⟩ | ⟨hr, -, he⟩ | ⟨hr, -, hl, he⟩ <;> cases he.symm.trans ht
  · exact h
  · exact inv_respond h ((readyC_iff s).1 hr).1 (by simp)
  · obtain ⟨hp, hn⟩ := (readyC_iff s).1 hr
    exact hrule hp hn hl

theorem inv_chkverifyRule {s : State} (h : Inv s) (hp : s.cPhase = .idle) (o : Operands) :
    Inv (chkverifyRule o s) := by
  unfold chkverifyRule
  split
  · exact inv_respond h hp (by simp)
  · simp only
    split <;> exact inv_respond h hp (by simp)

theorem inv_buildRule {s : State} (h : Inv s) (hp : s.cPhase = .idle) {o : Operands}
    (hl : o.buf.length = o.len.toNat) : Inv (buildRule o s) := by
  have hlen : o.len.toNat < 2 ^ 8 := o.len.isLt
  unfold buildRule
  split
  · exact inv_respond h hp (by simp)
  · exact inv_respond h hp (by simp only [pktBuild_length]; omega)

theorem inv_parseRule {s : State} (h : Inv s) (hp : s.cPhase = .idle) (o : Operands) :
    Inv (parseRule o s) := by
  have hp' : (afterBoardIdC s).cPhase = .idle := by simpa using hp
  unfold parseRule
  split
  · rename_i r hr
    have hlen : r.len.toNat < 2 ^ 8 := r.len.isLt
    have hpay := (pktParse_ok_length hr).1
    exact inv_respond (inv_afterBoardIdC h) hp' (by simp only; omega)
  · exact inv_respond (inv_afterBoardIdC h) hp' (by simp)

/-- R69, R181: what SEND offers is a frame. -/
theorem frameOk_txFrame {maxFrame : Nat} {id : BitVec 13} {cmd : BitVec 8} {p : List Byte}
    (hl : (txFrame id cmd p).length ≤ maxFrame) (hm : maxFrame < 2 ^ 16) :
    FrameOk maxFrame { flen := BitVec.ofNat 16 (txFrame id cmd p).length, bytes := txFrame id cmd p } := by
  refine ⟨Nat.mod_eq_of_lt (by omega), hl, by simp [txFrame], ?_⟩
  simpa [txFrame] using zero_not_mem_cobsEncode (pktBuild id cmd p)

theorem inv_sendRule {s : State} (h : Inv s) (hp : s.cPhase = .idle) (hn : s.cRsp = none)
    (hm : s.cfg.maxFrame < 2 ^ 16) (o : Operands) : Inv (sendRule o s) := by
  rcases sendRule_cases o s with he | ⟨-, hl, he⟩ <;> rw [he]
  · exact inv_respond (inv_emitC h .txOverflow) hp (by simp)
  · exact ⟨h.cursor, h.pend, fun _ => ⟨hn, frameOk_txFrame hl hm, fun n _ => Nat.zero_le n⟩, h.rsp⟩

theorem timerRuns_iff (s : State) : timerRuns s = true ↔ ∀ n ∈ s.cfg.txTimeout, s.cTxtimer < n := by
  unfold timerRuns
  cases s.cfg.txTimeout <;> simp

theorem inv_txHold {s : State} (h : Inv s) : Inv (txHold s) := by
  rcases txHold_cases s with ⟨hr, he⟩ | ⟨-, he⟩ <;> rw [he]
  · refine ⟨h.cursor, h.pend, fun hp => ?_, h.rsp⟩
    obtain ⟨hn, hf, -⟩ := h.wait hp
    exact ⟨hn, hf, (timerRuns_iff s).1 hr⟩
  · have hidle : Inv { s with cPhase := .idle } := ⟨h.cursor, h.pend, by simp [WaitOk], h.rsp⟩
    exact inv_respond (inv_emitC hidle .queueSendError) rfl (by simp)

theorem inv_txAccept {s : State} (h : Inv s) : Inv (txAccept s) := by
  unfold txAccept
  split
  · exact h
  · have hidle : Inv { s with cPhase := .idle, log := { s.log with tx := s.log.tx ++ [s.cTxframe] } } :=
      ⟨h.cursor, h.pend, by simp [WaitOk], h.rsp⟩
    exact inv_respond hidle rfl (by simp)

/-! Channel R. -/

theorem inv_rxFrame {s : State} (h : Inv s) {f : List Byte} (hf : f.length + 1 ≤ s.cfg.cursorCap) :
    Inv (rxFrame f s) := by
  rcases rxFrame_cases f s with ⟨e, he | he⟩ | ⟨r, hr, he⟩ <;> rw [he]
  · exact inv_emitR h e
  · exact inv_emitR (inv_afterBoardIdR h) e
  · have ha := inv_afterBoardIdR h
    refine ⟨ha.cursor, ?_, ha.wait, ha.rsp⟩
    obtain ⟨hlen, hsize⟩ := pktParse_ok_length hr
    have hdec := cobsDecode_length_le f
    have hid : r.id.toNat < 2 ^ 11 := r.id.isLt
    have hmid : (r.id.setWidth 13).toNat ≤ 2047 := by
      rw [BitVec.toNat_setWidth_of_le (by omega)]
      omega
    simp only [PendOk, Option.mem_some_iff, forall_eq', afterBoardIdR_cfg]
    exact ⟨hmid, hlen, by simp only [parsedMsg]; omega⟩

theorem inv_execRxDelim {s t : State} (h : Inv s) (hc : 2 ≤ s.cfg.cursorCap) (ht : execRxDelim s = .next t) :
    Inv t := by
  obtain ⟨-, -, hidx, -⟩ := h.cursor
  cases hr : readyR s with
  | false =>
    cases (execRxDelim_busy hr).symm.trans ht
    exact h
  | true =>
    by_cases h0 : s.cursorIdx = 0
    · cases (execRxDelim_empty hr h0).symm.trans ht
      exact inv_emitR h .malformed
    · cases (execRxDelim_of_le hr h0 (by omega)).symm.trans ht
      exact inv_rxFrame (inv_clearCursor h) (by simp; omega)

/-- R40, R160: a byte stored below CURSOR_CAP - 1. -/
theorem inv_store {s : State} (h : Inv s) (hlt : s.cursorIdx < s.cfg.cursorCap - 1) {b : Byte}
    (hb : b ≠ 0x00#8) :
    Inv { s with cursorBuf := Memory.write s.cursorBuf s.cursorIdx b, cursorIdx := s.cursorIdx + 1 } := by
  obtain ⟨hwf, hcells, -, hbytes⟩ := h.cursor
  refine ⟨⟨Memory.write_wf hwf _ b, fun c hc => ?_, hlt, fun i hi => ?_⟩, h.pend, h.wait, h.rsp⟩
  · rcases Memory.mem_write hc with he | hm
    · simpa only [he] using hlt
    · exact hcells c hm
  · simp only [Memory.read_write hwf]
    split
    · exact hb
    · exact hbytes i (by simp only at hi; omega)

theorem inv_execRxData {s t : State} (h : Inv s) {b : Byte} (hb : b ≠ 0x00#8)
    (ht : execRxData b s = .next t) : Inv t := by
  cases hr : readyR s with
  | false =>
    cases (execRxData_busy hr b).symm.trans ht
    exact h
  | true =>
    by_cases hlt : s.cursorIdx < s.cfg.cursorCap - 1
    · cases (execRxData_store hr hlt b).symm.trans ht
      exact inv_store h hlt hb
    · cases (execRxData_overflow hr hlt b).symm.trans ht
      exact inv_emitR (inv_clearCursor h) .rxOverflow

/-! The whole step. -/

/-- In an admitted configuration every instruction that decodes keeps the invariant. -/
theorem inv_exec {i : Instr} {s t : State} (hi : i.wf = true) (h : Inv s) (ha : paramsAdmitted s.cfg = true)
    (ht : exec i s = .next t) : Inv t := by
  obtain ⟨-, -, hcap, hframe, -, hbuf⟩ := (paramsAdmitted_iff s.cfg).1 ha
  cases i with
  | encode o =>
    refine inv_withBuf h (fun hp _ hl => inv_respond h hp ?_) ht
    have hlen := cobsEncode_length_le o.buf
    simp only
    omega
  | decode o =>
    refine inv_withBuf h (fun hp _ hl => inv_respond h hp ?_) ht
    have hlen := cobsDecode_length_le o.buf
    simp only
    omega
  | chksum o => exact inv_withBuf h (fun hp _ _ => inv_respond h hp (by simp)) ht
  | chkverify o => exact inv_withBuf h (fun hp _ _ => inv_chkverifyRule h hp o) ht
  | build o => exact inv_withPayload h (fun hp _ hl => inv_buildRule h hp hl) ht
  | parse o => exact inv_withBuf h (fun hp _ _ => inv_parseRule h hp o) ht
  | send o => exact inv_withPayload h (fun hp hn _ => inv_sendRule h hp hn (by omega) o) ht
  | rxDelim => exact inv_execRxDelim h hcap ht
  | rxData b => exact inv_execRxData h (by simpa [Instr.wf] using hi) ht
  | codeTerm =>
    cases ht
    exact ⟨h.cursor, h.pend, h.wait, h.rsp⟩
  | codeRun c =>
    cases ht
    exact ⟨h.cursor, h.pend, h.wait, h.rsp⟩
  | codeFull =>
    cases ht
    exact ⟨h.cursor, h.pend, h.wait, h.rsp⟩

/-- The invariant does not speak of the schedule, the waiting inputs or the working buffer. -/
theorem inv_of_inputs {s : State} (h : Inv s) (ms : List Move) (q : List Request) (l : List Byte)
    (w : DecWork) : Inv { s with sched := ms, cReq := q, rx := l, codec := w } :=
  ⟨h.cursor, h.pend, h.wait, h.rsp⟩

/-- Settles O59, by the cases of a step; the parameters' bounds are R7's. -/
theorem stepKeepsInvariant : Obligations.StepKeepsInvariant := by
  intro s t h hst
  have ha : paramsAdmitted s.cfg = true := ((configAdmitted_iff s).1 (admitted_of_step hst)).1
  cases step_cases hst with
  | idle _ ht => exact ht ▸ h
  | request ms r rest i _ _ _ hd ht => exact inv_exec (decodeRequest_wf hd) (inv_of_inputs h ms rest _ _) ha ht
  | illegal ms r rest _ hr _ ht =>
    exact ht ▸ inv_respond (inv_of_inputs h ms rest _ _) ((readyC_iff s).1 hr).1 (by simp)
  | hold ms _ _ ht => exact ht ▸ inv_txHold (inv_of_inputs h ms _ _ _)
  | byte ms b rest _ _ _ ht => exact inv_exec (decodeStreamByte_wf b) (inv_of_inputs h ms _ rest _) ha ht
  | code ms c rest _ _ _ ht => exact inv_exec (decodeCodeByte_wf c) (inv_of_inputs h ms _ _ _) ha ht
  | wait m ms _ ht => exact ht ▸ inv_of_inputs h ms _ _ _
  | accept ms _ ht => exact ht ▸ inv_txAccept (inv_of_inputs h ms _ _ _)
  | takeRsp ms _ ht => exact ht ▸ inv_takeRsp (inv_of_inputs h ms _ _ _)
  | takeMsg ms _ ht => exact ht ▸ inv_takeMsg (inv_of_inputs h ms _ _ _)
  | boardId ms v l _ ht => exact ht ▸ ⟨h.cursor, h.pend, h.wait, h.rsp⟩
  | reset ms midC midR _ ht => exact ht ▸ inv_of_cleared rfl rfl rfl rfl rfl

end Sys2Proof.Machine
end

section
/-! The two channels' parts of the state, and what the answers of channel C depend on (R20, R32, R46, R51). -/

namespace Sys2Proof.Machine

open Sys2Proof.Safety

/-! The parts. -/

/-- What the operations of channel C can change (R26, R29, log entries 6 and 8). -/
structure PartC where
  cPhase   : CPhase
  cTxframe : Frame
  cTxtimer : Nat
  cRsp     : Option Response
  cEvt     : List Event
  freeC    : Nat

/-- What the steps of channel R can change (R23 to R25, log entries 6 and 8). -/
structure PartR where
  cursorBuf : Memory
  cursorIdx : Nat
  rxPend    : Option Msg
  rEvt      : List Event
  freeR     : Nat

/-- Channel C's part of `s`. -/
def State.partC (s : State) : PartC :=
  { cPhase := s.cPhase, cTxframe := s.cTxframe, cTxtimer := s.cTxtimer, cRsp := s.cRsp, cEvt := s.log.cEvt,
    freeC := s.freeC }

/-- Channel R's part of `s`. -/
def State.partR (s : State) : PartR :=
  { cursorBuf := s.cursorBuf, cursorIdx := s.cursorIdx, rxPend := s.rxPend, rEvt := s.log.rEvt,
    freeR := s.freeR }

/-- `s` with channel C's part `c`. -/
def State.withC (s : State) (c : PartC) : State :=
  { s with
    cPhase := c.cPhase, cTxframe := c.cTxframe, cTxtimer := c.cTxtimer, cRsp := c.cRsp,
    log := { s.log with cEvt := c.cEvt }, freeC := c.freeC }

/-- `s` with channel R's part `r`. -/
def State.withR (s : State) (r : PartR) : State :=
  { s with
    cursorBuf := r.cursorBuf, cursorIdx := r.cursorIdx, rxPend := r.rxPend,
    log := { s.log with rEvt := r.rEvt }, freeR := r.freeR }

theorem withR_withC (s : State) (c : PartC) (r : PartR) : (s.withC c).withR r = (s.withR r).withC c := rfl

/-- The update changes channel C's part alone and reads nothing of channel R's. -/
def ActsOnC (g : State → State) : Prop :=
  ∀ (s : State) (r : PartR), g (s.withR r) = (s.withR r).withC (g s).partC

/-- The update changes channel R's part alone and reads nothing of channel C's. -/
def ActsOnR (g : State → State) : Prop :=
  ∀ (s : State) (c : PartC), g (s.withC c) = (s.withC c).withR (g s).partR

theorem ActsOnC.comp {g h : State → State} (hg : ActsOnC g) (hh : ActsOnC h) : ActsOnC fun s => g (h s) := by
  intro s r
  have hs : h s = s.withC (h s).partC := hh s s.partR
  calc g (h (s.withR r)) = g ((h s).withR r) := by rw [hh, hs]; rfl
    _ = ((h s).withR r).withC (g (h s)).partC := hg _ r
    _ = (s.withR r).withC (g (h s)).partC := by rw [hs]; rfl

theorem ActsOnR.comp {g h : State → State} (hg : ActsOnR g) (hh : ActsOnR h) : ActsOnR fun s => g (h s) := by
  intro s c
  have hs : h s = s.withR (h s).partR := hh s s.partC
  calc g (h (s.withC c)) = g ((h s).withC c) := by rw [hh, hs]; rfl
    _ = ((h s).withC c).withR (g (h s)).partR := hg _ c
    _ = (s.withC c).withR (g (h s)).partR := by rw [hs]; rfl

/-! Channel C. -/

theorem actsOnC_respond (f : RspFields) : ActsOnC (respond f) := fun _ _ => rfl

theorem actsOnC_txOverflow : ActsOnC txOverflow := fun _ _ => rfl

theorem actsOnC_offerFrame (t : List Byte) : ActsOnC (offerFrame t) := fun _ _ => rfl

theorem actsOnC_afterBoardIdC : ActsOnC afterBoardIdC := by
  intro s r
  unfold afterBoardIdC State.withR
  split <;> rfl

theorem actsOnC_chkverifyRule (o : Operands) : ActsOnC (chkverifyRule o) := by
  intro s r
  unfold chkverifyRule
  split
  · exact actsOnC_respond _ s r
  · simp only
    split <;> exact actsOnC_respond _ s r

theorem actsOnC_buildRule (o : Operands) : ActsOnC (buildRule o) := by
  intro s r
  have hc : (s.withR r).cfg = s.cfg := rfl
  unfold buildRule
  rw [hc]
  split <;> exact actsOnC_respond _ s r

theorem actsOnC_parseRule (o : Operands) : ActsOnC (parseRule o) := by
  intro s r
  have hb : boardIdC (s.withR r) = boardIdC s := rfl
  unfold parseRule
  rw [hb]
  split <;> exact (actsOnC_respond _).comp actsOnC_afterBoardIdC s r

theorem actsOnC_sendRule (o : Operands) : ActsOnC (sendRule o) := by
  intro s r
  have hc : (s.withR r).cfg = s.cfg := rfl
  unfold sendRule
  rw [hc]
  split
  · exact actsOnC_txOverflow s r
  · simp only
    split
    · exact actsOnC_txOverflow s r
    · exact actsOnC_offerFrame _ s r

/-- An operation whose rule acts on channel C has one effect on that part, whatever channel R's part is. -/
theorem withBuf_actsOnC {rule : State → State} (h : ActsOnC rule) (o : Operands) (s : State) :
    ∃ c : PartC, ∀ r : PartR, withBuf o (s.withR r) rule = .next ((s.withR r).withC c) := by
  rcases withBuf_cases o s rule with ⟨hr, -⟩ | ⟨hr, hl, -⟩ | ⟨hr, hl, -⟩
  · exact ⟨s.partC, fun r => withBuf_busy (s := s.withR r) hr o rule⟩
  · exact ⟨(operandError s).partC, fun r => withBuf_tooLong (s := s.withR r) hr hl rule⟩
  · exact ⟨(rule s).partC, fun r => by rw [withBuf_rule (s := s.withR r) hr hl, h]⟩

theorem withPayload_actsOnC {rule : State → State} (h : ActsOnC rule) (o : Operands) (s : State) :
    ∃ c : PartC, ∀ r : PartR, withPayload o (s.withR r) rule = .next ((s.withR r).withC c) := by
  refine withBuf_actsOnC (fun s r => ?_) o s
  split
  · exact actsOnC_respond _ s r
  · exact h s r

theorem exec_actsOnC {i : Instr} (hi : isChanC i = true) (s : State) :
    ∃ c : PartC, ∀ r : PartR, exec i (s.withR r) = .next ((s.withR r).withC c) := by
  cases i with
  | encode o => exact withBuf_actsOnC (actsOnC_respond _) o s
  | decode o => exact withBuf_actsOnC (actsOnC_respond _) o s
  | chksum o => exact withBuf_actsOnC (actsOnC_respond _) o s
  | chkverify o => exact withBuf_actsOnC (actsOnC_chkverifyRule o) o s
  | build o => exact withPayload_actsOnC (actsOnC_buildRule o) o s
  | parse o => exact withBuf_actsOnC (actsOnC_parseRule o) o s
  | send o => exact withPayload_actsOnC (actsOnC_sendRule o) o s
  | rxDelim => cases hi
  | rxData b => cases hi
  | codeTerm => cases hi
  | codeRun c => cases hi
  | codeFull => cases hi

/-! Channel R. -/

theorem actsOnR_emitR (e : Event) : ActsOnR (emitR e) := fun _ _ => rfl

theorem actsOnR_clearCursor : ActsOnR fun s => { s with cursorIdx := 0 } := fun _ _ => rfl

theorem actsOnR_pend (m : Msg) : ActsOnR fun s => { s with rxPend := some m } := fun _ _ => rfl

theorem actsOnR_afterBoardIdR : ActsOnR afterBoardIdR := by
  intro s c
  unfold afterBoardIdR State.withC
  split <;> rfl

theorem actsOnR_rxFrame (l : List Byte) : ActsOnR (rxFrame l) := by
  intro s c
  have hb : boardIdR (s.withC c) = boardIdR s := rfl
  have hc : (s.withC c).cfg = s.cfg := rfl
  unfold rxFrame
  rw [hb, hc]
  simp only
  split
  · exact actsOnR_emitR _ s c
  · split
    · exact actsOnR_emitR _ s c
    · split
      · exact (actsOnR_pend _).comp actsOnR_afterBoardIdR s c
      · exact (actsOnR_emitR _).comp actsOnR_afterBoardIdR s c

/-- RX_DELIM has one effect on channel R's part, or one fault, whatever channel C's part is. -/
theorem execRxDelim_actsOnR (s : State) :
    (∃ r : PartR, ∀ c : PartC, execRxDelim (s.withC c) = .next ((s.withC c).withR r)) ∨
    (∃ e, ∀ c : PartC, execRxDelim (s.withC c) = .fault e) := by
  cases hr : readyR s with
  | false => exact .inl ⟨s.partR, fun c => execRxDelim_busy (s := s.withC c) hr⟩
  | true =>
    by_cases h0 : s.cursorIdx = 0
    · exact .inl ⟨(emitR .malformed s).partR, fun c => execRxDelim_empty (s := s.withC c) hr h0⟩
    · rcases Nat.lt_or_ge s.cfg.cursorCap s.cursorIdx with hgt | hle
      · exact .inr ⟨.curReadOutOfRange s.cfg.cursorCap, fun c => execRxDelim_of_gt (s := s.withC c) hr hgt⟩
      · have hact := (actsOnR_rxFrame ((List.range s.cursorIdx).map (Memory.read s.cursorBuf))).comp
          actsOnR_clearCursor s
        exact .inl ⟨_, fun c => (execRxDelim_of_le (s := s.withC c) hr h0 hle).trans (congrArg _ (hact c))⟩

theorem execRxData_actsOnR (b : Byte) (s : State) :
    ∃ r : PartR, ∀ c : PartC, execRxData b (s.withC c) = .next ((s.withC c).withR r) := by
  cases hr : readyR s with
  | false => exact ⟨s.partR, fun c => execRxData_busy (s := s.withC c) hr b⟩
  | true =>
    by_cases hlt : s.cursorIdx < s.cfg.cursorCap - 1
    · exact ⟨{ s.partR with
          cursorBuf := Memory.write s.cursorBuf s.cursorIdx b, cursorIdx := s.cursorIdx + 1 },
        fun c => execRxData_store (s := s.withC c) hr hlt b⟩
    · exact ⟨(emitR .rxOverflow { s with cursorIdx := 0 }).partR,
        fun c => execRxData_overflow (s := s.withC c) hr hlt b⟩

theorem exec_actsOnR {j : Instr} (hj : isChanR j = true) (s : State) :
    (∃ r : PartR, ∀ c : PartC, exec j (s.withC c) = .next ((s.withC c).withR r)) ∨
    (∃ e, ∀ c : PartC, exec j (s.withC c) = .fault e) := by
  cases j with
  | rxDelim => exact execRxDelim_actsOnR s
  | rxData b => exact .inl (execRxData_actsOnR b s)
  | encode o => cases hj
  | decode o => cases hj
  | chksum o => cases hj
  | chkverify o => cases hj
  | build o => cases hj
  | parse o => cases hj
  | send o => cases hj
  | codeTerm => cases hj
  | codeRun c => cases hj
  | codeFull => cases hj

/-- Settles O49: each channel's instruction changes its own part alone, to a value that the other's part does
not decide. -/
theorem channelsCommute : Obligations.ChannelsCommute := by
  intro i j s hi hj
  obtain ⟨c, hc⟩ := exec_actsOnC hi s
  have hci : exec i s = .next (s.withC c) := hc s.partR
  rcases exec_actsOnR hj s with ⟨r, hr⟩ | ⟨e, he⟩
  · have hrj : exec j s = .next (s.withR r) := hr s.partC
    simp only [andThen, hci, hrj, hc, hr, withR_withC]
  · have hej : exec j s = .fault e := he s.partC
    simp only [andThen, hci, hej, he]

/-! Answers of channel C. -/

/-- Both outcomes are next states that offer the same response. -/
def SameAnswer (p q : Host.Outcome State Fault Refusal) : Prop :=
  ∃ s' t' : State, p = .next s' ∧ q = .next t' ∧ s'.cRsp = t'.cRsp ∧ s'.cRsp ≠ none

theorem sameAnswer_respond {s t : State} (f : RspFields) :
    SameAnswer (.next (respond f s)) (.next (respond f t)) :=
  ⟨_, _, rfl, rfl, rfl, by simp⟩

section
variable {s t : State} (hs : readyC s = true) (ht : readyC t = true) (hc : s.cfg = t.cfg)
include hs ht hc

theorem sameAnswer_withBuf {rule : State → State} (o : Operands)
    (h : SameAnswer (.next (rule s)) (.next (rule t))) : SameAnswer (withBuf o s rule) (withBuf o t rule) := by
  rcases Nat.lt_or_ge s.cfg.bufMax o.buf.length with hl | hl
  · rw [withBuf_tooLong hs hl, withBuf_tooLong ht (hc ▸ hl)]
    exact sameAnswer_respond _
  · rw [withBuf_rule hs hl, withBuf_rule ht (hc ▸ hl)]
    exact h

theorem sameAnswer_withPayload {rule : State → State} (o : Operands)
    (h : SameAnswer (.next (rule s)) (.next (rule t))) :
    SameAnswer (withPayload o s rule) (withPayload o t rule) := by
  refine sameAnswer_withBuf hs ht hc o ?_
  split
  · exact sameAnswer_respond _
  · exact h

theorem sameAnswer_execChkverify (o : Operands) : SameAnswer (execChkverify o s) (execChkverify o t) := by
  refine sameAnswer_withBuf hs ht hc o ?_
  unfold chkverifyRule
  split
  · exact sameAnswer_respond _
  · simp only
    split <;> exact sameAnswer_respond _

theorem sameAnswer_execBuild (o : Operands) : SameAnswer (execBuild o s) (execBuild o t) := by
  refine sameAnswer_withPayload hs ht hc o ?_
  unfold buildRule
  rw [hc]
  split <;> exact sameAnswer_respond _

theorem sameAnswer_execParse (o : Operands) (hb : boardIdC s = boardIdC t) :
    SameAnswer (execParse o s) (execParse o t) := by
  refine sameAnswer_withBuf hs ht hc o ?_
  unfold parseRule
  rw [hb]
  split <;> exact sameAnswer_respond _

end

/-- Settles O50: each answer is built from the operands, and BUILD's also from MAX_PAYLOAD, PARSE's from
BOARD_ID. -/
theorem answersDependOnRequestOnly : Obligations.AnswersDependOnRequestOnly := by
  intro s t o hs ht hc
  refine ⟨?_, fun hsa hta hb => ?_⟩
  · simp only [List.forall_mem_cons, List.not_mem_nil, false_imp_iff, implies_true, and_true]
    exact ⟨sameAnswer_withBuf hs ht hc o (sameAnswer_respond _),
      sameAnswer_withBuf hs ht hc o (sameAnswer_respond _),
      sameAnswer_withBuf hs ht hc o (sameAnswer_respond _),
      sameAnswer_execChkverify hs ht hc o, sameAnswer_execBuild hs ht hc o⟩
  · have hbid : boardIdC s = boardIdC t := by
      rw [boardIdC, boardIdC, drawBoardId_stable hsa, drawBoardId_stable hta, hb]
    exact sameAnswer_execParse hs ht hc o hbid

end Sys2Proof.Machine
end

section
/-! What each instruction leaves unchanged (R40, R47), and what the ports hand over in a step (R48 to R50,
R166, R202, R220). -/

namespace Sys2Proof.Machine

/-! Channel C. -/

/-- R62, R252: the answer of an operation on `buf` is the same state, OPERAND_ERROR, or its own rule's. -/
theorem withBuf_answer {s t : State} {o : Operands} {rule : State → State} (ht : withBuf o s rule = .next t) :
    t = s ∨ t = operandError s ∨ t = rule s := by
  rcases withBuf_cases o s rule with ⟨-, h⟩ | ⟨-, -, h⟩ | ⟨-, -, h⟩ <;> cases h.symm.trans ht
  · exact .inl rfl
  · exact .inr (.inl rfl)
  · exact .inr (.inr rfl)

theorem withPayload_answer {s t : State} {o : Operands} {rule : State → State}
    (ht : withPayload o s rule = .next t) : t = s ∨ t = operandError s ∨ t = rule s := by
  rcases withPayload_cases o s rule with ⟨-, h⟩ | ⟨-, -, h⟩ | ⟨-, -, -, h⟩ <;> cases h.symm.trans ht
  · exact .inl rfl
  · exact .inr (.inl rfl)
  · exact .inr (.inr rfl)

/-- From `s` to `t` the response alone changes. -/
def ResponseAlone (s t : State) : Prop := t = { s with cRsp := t.cRsp }

theorem responseAlone_respond (f : RspFields) (s : State) : ResponseAlone s (respond f s) := rfl

theorem responseAlone_chkverifyRule (o : Operands) (s : State) : ResponseAlone s (chkverifyRule o s) := by
  obtain ⟨f, h⟩ := chkverifyRule_cases o s
  exact h ▸ responseAlone_respond f s

theorem responseAlone_buildRule (o : Operands) (s : State) : ResponseAlone s (buildRule o s) := by
  obtain ⟨f, h⟩ := buildRule_cases o s
  exact h ▸ responseAlone_respond f s

theorem responseAlone_withBuf {s t : State} {o : Operands} {rule : State → State}
    (hr : ResponseAlone s (rule s)) (ht : withBuf o s rule = .next t) : ResponseAlone s t := by
  rcases withBuf_answer ht with rfl | rfl | rfl
  · rfl
  · exact responseAlone_respond _ s
  · exact hr

theorem responseAlone_execBuild {s t : State} {o : Operands} (ht : execBuild o s = .next t) :
    ResponseAlone s t := by
  rcases withPayload_answer ht with rfl | rfl | rfl
  · rfl
  · exact responseAlone_respond _ s
  · exact responseAlone_buildRule o s

theorem afterBoardIdC_eq (s : State) : afterBoardIdC s = { s with freeC := (afterBoardIdC s).freeC } := by
  unfold afterBoardIdC
  split <;> rfl

/-- R141: PARSE changes the response, and the count of free draws while BOARD_ID is not stable. -/
theorem execParse_frame {s t : State} {o : Operands} (ht : execParse o s = .next t) :
    t = { s with cRsp := t.cRsp, freeC := t.freeC } ∧ (s.boardIdAlso = [] → t.freeC = s.freeC) := by
  rcases withBuf_answer ht with rfl | rfl | rfl
  · exact ⟨rfl, fun _ => rfl⟩
  · exact ⟨rfl, fun _ => rfl⟩
  · obtain ⟨f, h⟩ := parseRule_cases o s
    rw [h]
    exact ⟨congrArg (respond f) (afterBoardIdC_eq s), fun hs => by simp [hs]⟩

/-- R180: SEND changes channel C's elements and its event port. -/
theorem execSend_frame {s t : State} {o : Operands} (ht : execSend o s = .next t) :
    t = { s with
      cRsp := t.cRsp, cPhase := t.cPhase, cTxframe := t.cTxframe, cTxtimer := t.cTxtimer,
      log := { s.log with cEvt := t.log.cEvt } } := by
  rcases withPayload_answer ht with rfl | rfl | rfl
  · rfl
  · rfl
  · rcases sendRule_cases o s with h | ⟨-, -, h⟩ <;> rw [h] <;> rfl

/-- Settles O46: the answers of the operand contract and of each operation's own rule, one by one. -/
theorem channelCFrame : Obligations.ChannelCFrame := by
  intro s t o
  refine ⟨fun ht => ?_, fun ht => ?_, fun ht => ?_⟩
  · have hframe : ResponseAlone s t := by
      rcases ht with ht | ht | ht | ht | ht
      · exact responseAlone_withBuf (responseAlone_respond _ s) ht
      · exact responseAlone_withBuf (responseAlone_respond _ s) ht
      · exact responseAlone_withBuf (responseAlone_respond _ s) ht
      · exact responseAlone_withBuf (responseAlone_chkverifyRule o s) ht
      · exact responseAlone_execBuild ht
    have hbuf : t.cursorBuf = s.cursorBuf := (congrArg State.cursorBuf hframe :)
    exact ⟨hframe, fun a => by rw [hbuf]⟩
  · obtain ⟨hframe, hfree⟩ := execParse_frame ht
    have hbuf : t.cursorBuf = s.cursorBuf := (congrArg State.cursorBuf hframe :)
    exact ⟨hframe, hfree, fun a => by rw [hbuf]⟩
  · have hframe := execSend_frame ht
    have hbuf : t.cursorBuf = s.cursorBuf := (congrArg State.cursorBuf hframe :)
    exact ⟨hframe, fun a => by rw [hbuf]⟩

/-! Channel R. -/

/-- R160: what RX_DATA answers: the same state while a message is pending, the byte stored, or the overflow. -/
inductive RxDataCase (b : Byte) (s t : State) : Prop where
  | busy (hr : s.rxPend ≠ none) (ht : t = s)
  | store (hr : s.rxPend = none) (hi : s.cursorIdx < s.cfg.cursorCap - 1)
      (ht : t = { s with cursorBuf := Memory.write s.cursorBuf s.cursorIdx b, cursorIdx := s.cursorIdx + 1 })
  | overflow (ht : t = emitR .rxOverflow { s with cursorIdx := 0 })

theorem execRxData_rxDataCase {b : Byte} {s t : State} (ht : execRxData b s = .next t) : RxDataCase b s t := by
  cases hr : readyR s with
  | false =>
    cases (execRxData_busy hr b).symm.trans ht
    exact .busy (by simpa [readyR] using hr) rfl
  | true =>
    by_cases hi : s.cursorIdx < s.cfg.cursorCap - 1
    · cases (execRxData_store hr hi b).symm.trans ht
      exact .store ((readyR_iff s).1 hr) hi rfl
    · cases (execRxData_overflow hr hi b).symm.trans ht
      exact .overflow rfl

/-- R161: what RX_DELIM answers: the same state while a message is pending, the event of an empty cursor, or
the frame's outcome. -/
inductive RxDelimCase (s t : State) : Prop where
  | busy (ht : t = s)
  | empty (ht : t = emitR .malformed s)
  | frame (f : List Byte) (ht : t = rxFrame f { s with cursorIdx := 0 })

theorem execRxDelim_rxDelimCase {s t : State} (ht : execRxDelim s = .next t) : RxDelimCase s t := by
  cases hr : readyR s with
  | false =>
    cases (execRxDelim_busy hr).symm.trans ht
    exact .busy rfl
  | true =>
    by_cases h0 : s.cursorIdx = 0
    · cases (execRxDelim_empty hr h0).symm.trans ht
      exact .empty rfl
    · rcases Nat.lt_or_ge s.cfg.cursorCap s.cursorIdx with hi | hi
      · cases (execRxDelim_of_gt hr hi).symm.trans ht
      · cases (execRxDelim_of_le hr h0 hi).symm.trans ht
        exact .frame _ rfl

theorem execRxData_frame {b : Byte} {s t : State} (ht : execRxData b s = .next t) :
    t = { s with
      cursorBuf := t.cursorBuf, cursorIdx := t.cursorIdx, log := { s.log with rEvt := t.log.rEvt } } := by
  cases execRxData_rxDataCase ht with
  | busy _ ht => rw [ht]
  | store _ _ ht => rw [ht]
  | overflow ht => rw [ht]; rfl

/-- R40, R160: the one byte RX_DATA stores is at CURSOR_IDX. -/
theorem execRxData_read {b : Byte} {s t : State} (ht : execRxData b s = .next t) {a : Nat}
    (ha : a ≠ s.cursorIdx ∨ s.rxPend ≠ none ∨ s.cfg.cursorCap - 1 ≤ s.cursorIdx) :
    Memory.read t.cursorBuf a = Memory.read s.cursorBuf a := by
  cases execRxData_rxDataCase ht with
  | busy _ ht => rw [ht]
  | store hr hi ht =>
    rw [ht]
    rcases ha with ha | hp | hc
    · exact Memory.read_write_other ha.symm _ b
    · exact absurd hr hp
    · omega
  | overflow ht => rw [ht]; rfl

theorem afterBoardIdR_eq (s : State) : afterBoardIdR s = { s with freeR := (afterBoardIdR s).freeR } := by
  unfold afterBoardIdR
  split <;> rfl

/-- R162: a completed frame changes RX_PEND, the event port, and the count of free draws while BOARD_ID is not
stable. -/
theorem rxFrame_frame (f : List Byte) (s : State) :
    rxFrame f s = { s with
      rxPend := (rxFrame f s).rxPend, freeR := (rxFrame f s).freeR,
      log := { s.log with rEvt := (rxFrame f s).log.rEvt } } ∧
    (s.boardIdAlso = [] → (rxFrame f s).freeR = s.freeR) := by
  rcases rxFrame_cases f s with ⟨e, h | h⟩ | ⟨r, -, h⟩ <;> rw [h]
  · exact ⟨rfl, fun _ => rfl⟩
  · rw [afterBoardIdR_eq]
    exact ⟨rfl, fun hs => by simp [hs]⟩
  · rw [afterBoardIdR_eq]
    exact ⟨rfl, fun hs => by simp [hs]⟩

/-- R161: RX_DELIM changes CURSOR_IDX and what its frame's outcome does. -/
theorem execRxDelim_frame {s t : State} (ht : execRxDelim s = .next t) :
    t = { s with
      cursorIdx := t.cursorIdx, rxPend := t.rxPend, freeR := t.freeR,
      log := { s.log with rEvt := t.log.rEvt } } ∧
    (s.boardIdAlso = [] → t.freeR = s.freeR) := by
  cases execRxDelim_rxDelimCase ht with
  | busy ht => exact ht ▸ ⟨rfl, fun _ => rfl⟩
  | empty ht => exact ht ▸ ⟨rfl, fun _ => rfl⟩
  | frame f ht =>
    obtain ⟨hframe, hfree⟩ := rxFrame_frame f { s with cursorIdx := 0 }
    rw [ht]
    refine ⟨?_, hfree⟩
    rw [hframe]

/-- Settles O47, by the cases of the two receive steps. -/
theorem channelRFrame : Obligations.ChannelRFrame := by
  intro s t
  refine ⟨fun b ht => ⟨execRxData_frame ht, fun a => execRxData_read ht⟩, fun ht => ?_⟩
  obtain ⟨hframe, hfree⟩ := execRxDelim_frame ht
  have hbuf : t.cursorBuf = s.cursorBuf := (congrArg State.cursorBuf hframe :)
  exact ⟨hframe, hfree, fun a => by rw [hbuf]⟩

/-! Hand-offs by the environment (R48). -/

theorem takeRsp_none {s : State} (h : s.cRsp = none) : takeRsp s = s := by
  simp [takeRsp, h]

theorem takeRsp_some {s : State} {r : Response} (h : s.cRsp = some r) :
    takeRsp s = { s with cRsp := none, log := { s.log with rsp := s.log.rsp ++ [r] } } := by
  simp [takeRsp, h]

theorem takeMsg_none {s : State} (h : s.rxPend = none) : takeMsg s = s := by
  simp [takeMsg, h]

theorem takeMsg_some {s : State} {m : Msg} (h : s.rxPend = some m) :
    takeMsg s = { s with rxPend := none, log := { s.log with msg := s.log.msg ++ [m] } } := by
  simp [takeMsg, h]

theorem txAccept_idle {s : State} (h : s.cPhase = .idle) : txAccept s = s := by
  simp [txAccept, h]

theorem txAccept_wait {s : State} (h : s.cPhase = .txWait) :
    txAccept s = respond { status := .ok }
      { s with cPhase := .idle, log := { s.log with tx := s.log.tx ++ [s.cTxframe] } } := by
  simp [txAccept, h]

/-- Settles O53: the schedule's move is the hand-off, and the item offered is what it takes. -/
theorem itemsTakenOnce : Obligations.ItemsTakenOnce := by
  intro s ms ha
  refine ⟨fun m hm hs => ?_, fun r hr hs => ?_⟩
  · rw [step_answer ha hs rfl, takeMsg_some (s := { s with sched := ms }) hm]
  · rw [step_answer ha hs rfl, takeRsp_some (s := { s with sched := ms }) hr]

/-! The ports over one step. -/

/-- From `s` to `t` no item is handed over but one event at most on each event port, and no input is taken. -/
structure EventsOnly (s t : State) : Prop where
  msg : t.log.msg = s.log.msg
  tx : t.log.tx = s.log.tx
  rsp : t.log.rsp = s.log.rsp
  cEvt : t.log.cEvt = s.log.cEvt ∨ ∃ e, t.log.cEvt = s.log.cEvt ++ [e]
  rEvt : t.log.rEvt = s.log.rEvt ∨ ∃ e, t.log.rEvt = s.log.rEvt ++ [e]
  rx : t.rx = s.rx
  cReq : t.cReq = s.cReq

/-- No port's record changes and no input is taken. -/
theorem eventsOnly_of_same {s t : State} (hlog : t.log = s.log) (hrx : t.rx = s.rx) (hq : t.cReq = s.cReq) :
    EventsOnly s t := by
  constructor <;> simp [hlog, hrx, hq]

theorem eventsOnly_emitC {s t : State} {e : Event} (hlog : t.log = { s.log with cEvt := s.log.cEvt ++ [e] })
    (hrx : t.rx = s.rx) (hq : t.cReq = s.cReq) : EventsOnly s t := by
  constructor <;> simp [hlog, hrx, hq]

theorem eventsOnly_emitR {s t : State} {e : Event} (hlog : t.log = { s.log with rEvt := s.log.rEvt ++ [e] })
    (hrx : t.rx = s.rx) (hq : t.cReq = s.cReq) : EventsOnly s t := by
  constructor <;> simp [hlog, hrx, hq]

theorem eventsOnly_of_responseAlone {s t : State} (h : ResponseAlone s t) : EventsOnly s t :=
  eventsOnly_of_same (congrArg State.log h :) (congrArg State.rx h :) (congrArg State.cReq h :)

theorem eventsOnly_execParse {s t : State} {o : Operands} (ht : execParse o s = .next t) : EventsOnly s t := by
  obtain ⟨h, -⟩ := execParse_frame ht
  exact eventsOnly_of_same (congrArg State.log h :) (congrArg State.rx h :) (congrArg State.cReq h :)

theorem eventsOnly_execSend {s t : State} {o : Operands} (ht : execSend o s = .next t) : EventsOnly s t := by
  rcases withPayload_answer ht with rfl | rfl | rfl
  · exact eventsOnly_of_same rfl rfl rfl
  · exact eventsOnly_of_same rfl rfl rfl
  · rcases sendRule_cases o s with h | ⟨-, -, h⟩ <;> rw [h]
    · exact eventsOnly_emitC rfl rfl rfl
    · exact eventsOnly_of_same rfl rfl rfl

theorem eventsOnly_execRxData {b : Byte} {s t : State} (ht : execRxData b s = .next t) : EventsOnly s t := by
  cases execRxData_rxDataCase ht with
  | busy _ ht => exact ht ▸ eventsOnly_of_same rfl rfl rfl
  | store _ _ ht => exact ht ▸ eventsOnly_of_same rfl rfl rfl
  | overflow ht => exact ht ▸ eventsOnly_emitR rfl rfl rfl

theorem eventsOnly_rxFrame (f : List Byte) (s : State) : EventsOnly s (rxFrame f s) := by
  rcases rxFrame_cases f s with ⟨e, h | h⟩ | ⟨r, -, h⟩ <;> rw [h]
  · exact eventsOnly_emitR rfl rfl rfl
  · exact eventsOnly_emitR (e := e) (by simp) (by simp) (by simp)
  · exact eventsOnly_of_same (by simp) (by simp) (by simp)

theorem eventsOnly_execRxDelim {s t : State} (ht : execRxDelim s = .next t) : EventsOnly s t := by
  cases execRxDelim_rxDelimCase ht with
  | busy ht => exact ht ▸ eventsOnly_of_same rfl rfl rfl
  | empty ht => exact ht ▸ eventsOnly_emitR rfl rfl rfl
  | frame f ht =>
    obtain ⟨hm, htx, hrsp, hc, hr, hrx, hq⟩ := eventsOnly_rxFrame f { s with cursorIdx := 0 }
    exact ht ▸ ⟨hm, htx, hrsp, hc, hr, hrx, hq⟩

/-- R202: an instruction emits at most one event on each event port, and hands over nothing else. -/
theorem eventsOnly_exec {i : Instr} {s t : State} (ht : exec i s = .next t) : EventsOnly s t := by
  cases i with
  | encode o => exact eventsOnly_of_responseAlone (responseAlone_withBuf (responseAlone_respond _ s) ht)
  | decode o => exact eventsOnly_of_responseAlone (responseAlone_withBuf (responseAlone_respond _ s) ht)
  | chksum o => exact eventsOnly_of_responseAlone (responseAlone_withBuf (responseAlone_respond _ s) ht)
  | chkverify o =>
    exact eventsOnly_of_responseAlone (responseAlone_withBuf (responseAlone_chkverifyRule o s) ht)
  | build o => exact eventsOnly_of_responseAlone (responseAlone_execBuild ht)
  | parse o => exact eventsOnly_execParse ht
  | send o => exact eventsOnly_execSend ht
  | rxDelim => exact eventsOnly_execRxDelim ht
  | rxData b => exact eventsOnly_execRxData ht
  | codeTerm =>
    cases ht
    exact eventsOnly_of_same rfl rfl rfl
  | codeRun c =>
    cases ht
    exact eventsOnly_of_same rfl rfl rfl
  | codeFull =>
    cases ht
    exact eventsOnly_of_same rfl rfl rfl

/-- R183: a step of SEND's wait in which the queue does not accept hands over no frame. -/
theorem eventsOnly_txHold (s : State) : EventsOnly s (txHold s) := by
  rcases txHold_cases s with ⟨-, h⟩ | ⟨-, h⟩ <;> rw [h]
  · exact eventsOnly_of_same rfl rfl rfl
  · exact eventsOnly_emitC rfl rfl rfl

/-- R48 to R50, R202: from `s` to `t` each port hands over at most one item, in order, and each input is taken
oldest first, one at most. -/
def PortsInOrder (s t : State) : Prop :=
  (t.log.msg = s.log.msg ∨ ∃ m, s.rxPend = some m ∧ t.log.msg = s.log.msg ++ [m] ∧ t.rxPend = none) ∧
  (t.log.tx = s.log.tx ∨ (s.cPhase = .txWait ∧ t.log.tx = s.log.tx ++ [s.cTxframe] ∧ t.cPhase = .idle)) ∧
  (t.log.rsp = s.log.rsp ∨ ∃ r, s.cRsp = some r ∧ t.log.rsp = s.log.rsp ++ [r] ∧ t.cRsp = none) ∧
  (t.log.cEvt = s.log.cEvt ∨ ∃ e, t.log.cEvt = s.log.cEvt ++ [e]) ∧
  (t.log.rEvt = s.log.rEvt ∨ ∃ e, t.log.rEvt = s.log.rEvt ++ [e]) ∧
  (t.rx = s.rx ∨ ∃ b, s.rx = b :: t.rx) ∧ (t.cReq = s.cReq ∨ ∃ r, s.cReq = r :: t.cReq)

theorem portsInOrder_of_eventsOnly {s t : State} (h : EventsOnly s t) : PortsInOrder s t :=
  ⟨.inl h.msg, .inl h.tx, .inl h.rsp, h.cEvt, h.rEvt, .inl h.rx, .inl h.cReq⟩

theorem portsInOrder_of_same {s t : State} (hlog : t.log = s.log) (hrx : t.rx = s.rx) (hq : t.cReq = s.cReq) :
    PortsInOrder s t :=
  portsInOrder_of_eventsOnly (eventsOnly_of_same hlog hrx hq)

theorem portsInOrder_txAccept (s : State) : PortsInOrder s (txAccept s) := by
  cases hp : s.cPhase with
  | idle => exact (txAccept_idle hp).symm ▸ portsInOrder_of_same rfl rfl rfl
  | txWait =>
    rw [txAccept_wait hp]
    exact ⟨.inl rfl, .inr ⟨hp, rfl, rfl⟩, .inl rfl, .inl rfl, .inl rfl, .inl rfl, .inl rfl⟩

theorem portsInOrder_takeRsp (s : State) : PortsInOrder s (takeRsp s) := by
  cases hr : s.cRsp with
  | none => exact (takeRsp_none hr).symm ▸ portsInOrder_of_same rfl rfl rfl
  | some r =>
    rw [takeRsp_some hr]
    exact ⟨.inl rfl, .inl rfl, .inr ⟨r, hr, rfl, rfl⟩, .inl rfl, .inl rfl, .inl rfl, .inl rfl⟩

theorem portsInOrder_takeMsg (s : State) : PortsInOrder s (takeMsg s) := by
  cases hm : s.rxPend with
  | none => exact (takeMsg_none hm).symm ▸ portsInOrder_of_same rfl rfl rfl
  | some m =>
    rw [takeMsg_some hm]
    exact ⟨.inr ⟨m, hm, rfl, rfl⟩, .inl rfl, .inl rfl, .inl rfl, .inl rfl, .inl rfl, .inl rfl⟩

/-- A list with its oldest item dropped where `c` says so. -/
theorem tail_taken {α : Type} (c : Bool) (l : List α) :
    (if c then l.tail else l) = l ∨ ∃ x, l = x :: (if c then l.tail else l) := by
  cases c with
  | false => exact .inl rfl
  | true =>
    cases l with
    | nil => exact .inl rfl
    | cons x l => exact .inr ⟨x, rfl⟩

/-- R240, R242: reset hands over nothing, and drops at most the input each channel had accepted. -/
theorem portsInOrder_reset (midC midR : Bool) (s : State) :
    PortsInOrder s (resetMachine (abandon midC midR s)) :=
  ⟨.inl rfl, .inl rfl, .inl rfl, .inl rfl, .inl rfl, tail_taken _ s.rx, tail_taken _ s.cReq⟩

/-- Settles O52, by the cases of a step: an instruction's step hands over events alone, and the one input it
took was the oldest; the other items leave by the environment's moves. -/
theorem portsKeepOrder : Obligations.PortsKeepOrder := by
  intro s t hst
  change PortsInOrder s t
  cases step_cases hst with
  | idle _ ht => exact ht ▸ portsInOrder_of_same rfl rfl rfl
  | request ms r rest i _ _ hq _ ht =>
    obtain ⟨hm, htx, hrsp, hc, hr, hrx, hreq⟩ := eventsOnly_exec ht
    exact ⟨.inl hm, .inl htx, .inl hrsp, hc, hr, .inl hrx, .inr ⟨r, by rw [hreq, hq]⟩⟩
  | illegal ms r rest _ _ hq ht =>
    exact ht ▸ ⟨.inl rfl, .inl rfl, .inl rfl, .inl rfl, .inl rfl, .inl rfl, .inr ⟨r, hq⟩⟩
  | hold ms _ _ ht => exact ht ▸ (portsInOrder_of_eventsOnly (eventsOnly_txHold { s with sched := ms }) :)
  | byte ms b rest _ _ hq ht =>
    obtain ⟨hm, htx, hrsp, hc, hr, hrx, hreq⟩ := eventsOnly_exec ht
    exact ⟨.inl hm, .inl htx, .inl hrsp, hc, hr, .inr ⟨b, by rw [hrx, hq]⟩, .inl hreq⟩
  | code ms c rest _ _ _ ht => exact (portsInOrder_of_eventsOnly (eventsOnly_exec ht) :)
  | wait m ms _ ht => exact ht ▸ portsInOrder_of_same rfl rfl rfl
  | accept ms _ ht => exact ht ▸ portsInOrder_txAccept { s with sched := ms }
  | takeRsp ms _ ht => exact ht ▸ portsInOrder_takeRsp { s with sched := ms }
  | takeMsg ms _ ht => exact ht ▸ portsInOrder_takeMsg { s with sched := ms }
  | boardId ms v l _ ht => exact ht ▸ portsInOrder_of_same rfl rfl rfl
  | reset ms midC midR _ ht => exact ht ▸ portsInOrder_reset midC midR { s with sched := ms }

end Sys2Proof.Machine
end

section
/-! The encoder and the decoder undo each other, for requests field by field (R60, R61) and for the bytes of
both positions (R70, R71). -/

namespace Sys2Proof

/-! The operand fields of an encoded request. -/

theorem reqCmd_encodeRequest (op : BitVec 4) (o : Operands) : reqCmd (encodeRequest op o) = o.cmd := by
  ext i hi
  have h : 8 + i < 16 ∧ 8 + i < 32 ∧ 4 ≤ 8 + i := by omega
  simp [reqCmd, encodeRequest, encodeReq0, h, BitVec.getLsbD_of_ge, hi]

theorem reqId_encodeRequest (op : BitVec 4) (o : Operands) : reqId (encodeRequest op o) = o.id := by
  ext i hi
  have h : 16 + i < 32 ∧ ¬ 16 + i < 16 ∧ 4 ≤ 16 + i ∧ 8 ≤ 16 + i - 8 ∧ i < 32 := by omega
  simp [reqId, encodeRequest, encodeReq0, h, BitVec.getLsbD_of_ge, hi]

theorem reqLen_encodeRequest (op : BitVec 4) (o : Operands) : reqLen (encodeRequest op o) = o.len := by
  ext i hi
  have h : i < 16 ∧ i < 32 := by omega
  simp [reqLen, encodeRequest, encodeReq1, h, BitVec.getLsbD_eq_getElem hi]

theorem reqOperands_encodeRequest (op : BitVec 4) (o : Operands) :
    reqOperands (encodeRequest op o) = o := by
  rw [reqOperands, reqCmd_encodeRequest, reqId_encodeRequest, reqLen_encodeRequest]
  rfl

/-! A request whose reserved fields are 0 is its fields. -/

/-- A field of a word, put back where it stood. -/
theorem getLsbD_fieldBack (x : Word) (start len : Nat) {i : Nat} (hi : i < 32) :
    ((x.extractLsb' start len).setWidth 32 <<< start).getLsbD i =
      (decide (start ≤ i ∧ i < start + len) && x.getLsbD i) := by
  by_cases hs : start ≤ i
  · have hsub : i - start < 32 ∧ start + (i - start) = i ∧ (i - start < len ↔ i < start + len) := by omega
    simp [hi, hs, hsub]
  · simp [hs]

/-- The same of a word's lowest field, which needs no shift. -/
theorem getLsbD_lowFieldBack (x : Word) (len : Nat) {i : Nat} (hi : i < 32) :
    ((x.extractLsb' 0 len).setWidth 32).getLsbD i = (decide (i < len) && x.getLsbD i) := by
  simpa using getLsbD_fieldBack x 0 len hi

/-- A field that is 0 has no bit set. -/
theorem getLsbD_of_field_eq_zero {x : Word} {start len i : Nat} (h : x.extractLsb' start len = 0)
    (hs : start ≤ i) (hl : i < start + len) : x.getLsbD i = false := by
  have hsub : i - start < len ∧ start + (i - start) = i := by omega
  simpa [hsub] using congrArg (BitVec.getLsbD · (i - start)) h

/-- R62.1: the reserved fields are 0. -/
def ReservedClear (r : Request) : Prop := reqRsv0 r = 0 ∧ reqRsv1 r = 0 ∧ reqRsv2 r = 0

theorem encodeReq0_fields {r : Request} (hz : ReservedClear r) :
    encodeReq0 (reqOp r) (reqOperands r) = r.req0 := by
  obtain ⟨h0, h1, -⟩ := hz
  refine BitVec.eq_of_getLsbD_eq fun i hi => ?_
  simp only [encodeReq0, reqOperands, reqOp, reqCmd, reqId, BitVec.getLsbD_or, getLsbD_fieldBack _ _ _ hi,
    getLsbD_lowFieldBack _ _ hi]
  cases hb : r.req0.getLsbD i with
  | false => simp
  | true =>
    have hrsv0 : ¬ (4 ≤ i ∧ i < 8) := fun ⟨hs, hl⟩ => by simp [getLsbD_of_field_eq_zero h0 hs hl] at hb
    have hrsv1 : ¬ 29 ≤ i := fun hs => by simp [getLsbD_of_field_eq_zero h1 hs hi] at hb
    simp only [Bool.and_true, Bool.or_eq_true, decide_eq_true_eq]
    omega

theorem encodeReq1_fields {r : Request} (hc : requestComplete r = true) (hz : ReservedClear r) :
    encodeReq1 (reqOperands r) = r.req1 := by
  obtain ⟨-, -, h2⟩ := hz
  have hcount : r.buf.length = (reqBlen r).toNat := by simpa [requestComplete] using hc
  refine BitVec.eq_of_getLsbD_eq fun i hi => ?_
  simp only [encodeReq1, reqOperands, hcount, BitVec.ofNat_toNat, BitVec.setWidth_eq, reqLen, reqBlen,
    BitVec.getLsbD_or, getLsbD_fieldBack _ _ _ hi, getLsbD_lowFieldBack _ _ hi]
  cases hb : r.req1.getLsbD i with
  | false => simp
  | true =>
    have hrsv2 : ¬ (8 ≤ i ∧ i < 16) := fun ⟨hs, hl⟩ => by simp [getLsbD_of_field_eq_zero h2 hs hl] at hb
    simp only [Bool.and_true, Bool.or_eq_true, decide_eq_true_eq]
    omega

theorem encodeRequest_fields {r : Request} (hc : requestComplete r = true) (hz : ReservedClear r) :
    encodeRequest (reqOp r) (reqOperands r) = r := by
  rw [encodeRequest, encodeReq0_fields hz, encodeReq1_fields hc hz]
  rfl

theorem reservedClear_encodeRequest (op : BitVec 4) (o : Operands) : ReservedClear (encodeRequest op o) :=
  ⟨reqRsv0_encodeRequest op o, reqRsv1_encodeRequest op o, reqRsv2_encodeRequest op o⟩

/-! The operation an `op` value names (R61). -/

/-- The operations are 0x1 to 0x7. -/
theorem opInstr_eq_none_iff (op : BitVec 4) (o : Operands) :
    opInstr op o = none ↔ op = 0x0#4 ∨ 8 ≤ op.toNat := by
  unfold opInstr
  repeat' split
  all_goals simp only [reduceCtorEq, false_iff, true_iff]
  all_goals bv_omega

theorem exists_opInstr {op : BitVec 4} (o : Operands) (h : ¬ (op = 0x0#4 ∨ 8 ≤ op.toNat)) :
    ∃ i, opInstr op o = some i :=
  Option.ne_none_iff_exists'.1 (mt (opInstr_eq_none_iff op o).1 h)

theorem opInstr_cases {op : BitVec 4} {o : Operands} {i : Instr} (h : opInstr op o = some i) :
    (op = 0x1#4 ∧ i = .encode o) ∨ (op = 0x2#4 ∧ i = .decode o) ∨ (op = 0x3#4 ∧ i = .chksum o) ∨
    (op = 0x4#4 ∧ i = .chkverify o) ∨ (op = 0x5#4 ∧ i = .build o) ∨ (op = 0x6#4 ∧ i = .parse o) ∨
    (op = 0x7#4 ∧ i = .send o) := by
  unfold opInstr at h
  repeat' split at h
  all_goals cases h
  all_goals simp [*]

theorem encodeItem_opInstr {op : BitVec 4} {o : Operands} {i : Instr} (h : opInstr op o = some i) :
    encodeItem i = .request (encodeRequest op o) := by
  rcases opInstr_cases h with ⟨rfl, rfl⟩ | ⟨rfl, rfl⟩ | ⟨rfl, rfl⟩ | ⟨rfl, rfl⟩ | ⟨rfl, rfl⟩ | ⟨rfl, rfl⟩ |
    ⟨rfl, rfl⟩ <;> rfl

/-! What a request that holds its operand bytes decodes to: one equation per outcome (R60, R61, R62.1). -/

theorem decodeRequest_reservedField {r : Request} (hc : requestComplete r = true) (hz : ¬ ReservedClear r) :
    decodeRequest r = .error .reservedField := by
  have hz : reqRsv0 r ≠ 0 ∨ reqRsv1 r ≠ 0 ∨ reqRsv2 r ≠ 0 := by
    simpa only [ReservedClear, not_and_or] using hz
  rw [decodeRequest, if_neg (by simp [hc]), if_pos hz]

theorem decodeRequest_reservedOp {r : Request} (hc : requestComplete r = true) (hz : ReservedClear r)
    (ho : opInstr (reqOp r) (reqOperands r) = none) : decodeRequest r = .error .reservedOp := by
  obtain ⟨h0, h1, h2⟩ := hz
  simp [decodeRequest, hc, h0, h1, h2, ho]

theorem decodeRequest_instr {r : Request} (hc : requestComplete r = true) (hz : ReservedClear r) {i : Instr}
    (ho : opInstr (reqOp r) (reqOperands r) = some i) : decodeRequest r = .ok i := by
  obtain ⟨h0, h1, h2⟩ := hz
  simp [decodeRequest, hc, h0, h1, h2, ho]

/-- A request decodes only so. -/
theorem of_decodeRequest_ok {r : Request} {i : Instr} (h : decodeRequest r = .ok i) :
    requestComplete r = true ∧ ReservedClear r ∧ opInstr (reqOp r) (reqOperands r) = some i := by
  cases hc : requestComplete r with
  | false => cases (Machine.decodeRequest_incomplete hc).symm.trans h
  | true =>
    by_cases hz : ReservedClear r
    · cases ho : opInstr (reqOp r) (reqOperands r) with
      | none => cases (decodeRequest_reservedOp hc hz ho).symm.trans h
      | some j =>
        cases (decodeRequest_instr hc hz ho).symm.trans h
        exact ⟨rfl, hz, rfl⟩
    · cases (decodeRequest_reservedField hc hz).symm.trans h

theorem decodeRequest_encodeRequest {op : BitVec 4} {o : Operands} {i : Instr} (hw : o.wf = true)
    (ho : opInstr op o = some i) : decodeRequest (encodeRequest op o) = .ok i := by
  refine decodeRequest_instr (requestComplete_encodeRequest op hw) (reservedClear_encodeRequest op o) ?_
  rw [reqOp_encodeRequest, reqOperands_encodeRequest, ho]

theorem encodeItem_decodeRequest {r : Request} {i : Instr} (h : decodeRequest r = .ok i) :
    encodeItem i = .request r := by
  obtain ⟨hc, hz, ho⟩ := of_decodeRequest_ok h
  rw [encodeItem_opInstr ho, encodeRequest_fields hc hz]

/-! Bytes (R70, R71). -/

theorem decodeStreamByte_data {b : Byte} (h : b ≠ Config.DELIM) : decodeStreamByte b = .rxData b := if_neg h

theorem decodeCodeByte_run {c : Byte} (h0 : c ≠ Config.DELIM) (hf : c ≠ Config.CODE_FULL) :
    decodeCodeByte c = .codeRun c := by
  rw [decodeCodeByte, if_neg h0, if_neg hf]

theorem encodeItem_decodeStreamByte (b : Byte) : encodeItem (decodeStreamByte b) = .stream b := by
  by_cases hb : b = Config.DELIM
  · subst hb
    rfl
  · rw [decodeStreamByte_data hb, encodeItem]

theorem encodeItem_decodeCodeByte (c : Byte) : encodeItem (decodeCodeByte c) = .code c := by
  by_cases h0 : c = Config.DELIM
  · subst h0
    rfl
  · by_cases hf : c = Config.CODE_FULL
    · subst hf
      rfl
    · rw [decodeCodeByte_run h0 hf, encodeItem]

/-! The statements. -/

/-- Settles O3: a request's fields are read back from the words it is written as, and a well-formed byte
instruction's byte is of its own class. -/
theorem decodeOfEncode : Obligations.DecodeOfEncode := by
  intro i hi
  cases i with
  | encode o => exact decodeRequest_encodeRequest hi rfl
  | decode o => exact decodeRequest_encodeRequest hi rfl
  | chksum o => exact decodeRequest_encodeRequest hi rfl
  | chkverify o => exact decodeRequest_encodeRequest hi rfl
  | build o => exact decodeRequest_encodeRequest hi rfl
  | parse o => exact decodeRequest_encodeRequest hi rfl
  | send o => exact decodeRequest_encodeRequest hi rfl
  | rxDelim => rfl
  | rxData b =>
    have hb : b ≠ Config.DELIM := by simpa [Instr.wf] using hi
    exact congrArg Except.ok (decodeStreamByte_data hb)
  | codeTerm => rfl
  | codeRun c =>
    obtain ⟨h0, hf⟩ : c ≠ Config.DELIM ∧ c ≠ Config.CODE_FULL := by simpa [Instr.wf] using hi
    exact congrArg Except.ok (decodeCodeByte_run h0 hf)
  | codeFull => rfl

/-- Settles O4: a request that decodes is made of its fields alone, and a byte is the byte of its class. -/
theorem encodeOfDecode : Obligations.EncodeOfDecode := by
  intro it i h
  cases it with
  | request r => exact ⟨Machine.decodeRequest_wf h, encodeItem_decodeRequest h⟩
  | stream b =>
    cases h
    exact ⟨Machine.decodeStreamByte_wf b, encodeItem_decodeStreamByte b⟩
  | code c =>
    cases h
    exact ⟨Machine.decodeCodeByte_wf c, encodeItem_decodeCodeByte c⟩

/-- Settles O2. -/
theorem writtenWordsDecode : Obligations.WrittenWordsDecode :=
  ⟨rfl, rfl, rfl, rfl, rfl, rfl, rfl, rfl, rfl⟩

end Sys2Proof
end

section
/-! The operand contract of a request (R62, R73), and code bytes run one by one (R71, R103). -/

namespace Sys2Proof.Machine

/-! The two answers of the contract, bit for bit (R62, R63). -/

theorem operandError_eq (s : State) :
    operandError s = { s with cRsp := some ⟨0x0000000A#32, 0#32, []⟩ } := rfl

theorem illegalRequest_eq (s : State) :
    illegalRequest s = { s with cRsp := some ⟨0x00000009#32, 0#32, []⟩ } := rfl

/-! Requests. -/

/-- R62.1, R73. -/
theorem fetchRequest_illegal {r : Request} (hc : requestComplete r = true)
    (hi : ReservedClear r → opInstr (reqOp r) (reqOperands r) = none) (s : State) :
    fetchRequest r s = .answer (.next (illegalRequest s)) := by
  unfold fetchRequest
  by_cases hz : ReservedClear r
  · rw [decodeRequest_reservedOp hc hz (hi hz)]
  · rw [decodeRequest_reservedField hc hz]

/-- The step in which channel C takes a request. -/
theorem step_request {s : State} {ms : List Move} {r : Request} {rest : List Request} {i : Instr}
    (ha : configAdmitted s = true) (hs : s.sched = .chanC :: ms) (hr : readyC s = true)
    (hq : s.cReq = r :: rest) (hd : decodeRequest r = .ok i) :
    step s = exec i { s with sched := ms, cReq := rest } :=
  ((stepRunsDecodedInstruction s .chanC ms ha hs).1 r rest i rfl hr hq hd).2

theorem step_illegal {s : State} {ms : List Move} {r : Request} {rest : List Request}
    (ha : configAdmitted s = true) (hs : s.sched = .chanC :: ms) (hr : readyC s = true)
    (hq : s.cReq = r :: rest) (hc : requestComplete r = true)
    (hi : ReservedClear r → opInstr (reqOp r) (reqOperands r) = none) :
    step s = .next (illegalRequest { s with sched := ms, cReq := rest }) :=
  step_answer ha hs
    ((fetchC_request (s := { s with sched := ms }) hr hq).trans (fetchRequest_illegal hc hi _))

theorem withPayload_tooLong {s : State} {o : Operands} (h : readyC s = true)
    (hl : s.cfg.bufMax < o.buf.length) (rule : State → State) :
    withPayload o s rule = .next (operandError s) :=
  withBuf_tooLong h hl _

/-- R62.2: every operation of channel C checks the number of operand bytes first. -/
theorem exec_tooLong {op : BitVec 4} {o : Operands} {i : Instr} (ho : opInstr op o = some i) {s : State}
    (hr : readyC s = true) (hl : s.cfg.bufMax < o.buf.length) : exec i s = .next (operandError s) := by
  rcases opInstr_cases ho with ⟨-, rfl⟩ | ⟨-, rfl⟩ | ⟨-, rfl⟩ | ⟨-, rfl⟩ | ⟨-, rfl⟩ | ⟨-, rfl⟩ | ⟨-, rfl⟩
  · exact withBuf_tooLong hr hl (encodeRule o)
  · exact withBuf_tooLong hr hl (decodeRule o)
  · exact withBuf_tooLong hr hl (chksumRule o)
  · exact withBuf_tooLong hr hl (chkverifyRule o)
  · exact withPayload_tooLong hr hl (buildRule o)
  · exact withBuf_tooLong hr hl (parseRule o)
  · exact withPayload_tooLong hr hl (sendRule o)

/-- R62.3: BUILD (0x5) and SEND (0x7) check that the payload has `len` bytes. -/
theorem exec_lenMismatch {op : BitVec 4} {o : Operands} {i : Instr} (ho : opInstr op o = some i)
    (hop : op = 0x5#4 ∨ op = 0x7#4) {s : State} (hr : readyC s = true) (he : o.buf.length ≠ o.len.toNat) :
    exec i s = .next (operandError s) := by
  rcases hop with rfl | rfl
  · cases ho
    exact withPayload_mismatch hr he _
  · cases ho
    exact withPayload_mismatch hr he _

/-- Settles O7: an illegal request decodes to no instruction; any other decodes to one, whose first checks are
the contract's. -/
theorem requestChecksInOrder : Obligations.RequestChecksInOrder := by
  intro s ms r rest ha hs hr hq hc t illegal tooLong
  have hcount : r.buf.length = (r.req1.extractLsb' 16 16).toNat := of_decide_eq_true hc
  have hlegal : ¬ illegal → ∃ i, opInstr (reqOp r) (reqOperands r) = some i ∧ step s = exec i t := by
    intro h
    simp only [illegal, not_or, not_not] at h
    obtain ⟨h0, h1, h2, hop⟩ := h
    obtain ⟨i, hi⟩ := exists_opInstr (reqOperands r) (not_or.2 hop)
    exact ⟨i, hi, step_request ha hs hr hq (decodeRequest_instr hc ⟨h0, h1, h2⟩ hi)⟩
  refine ⟨fun h => ?_, fun h hl => ?_, fun h _ hop he => ?_⟩
  · have hi : ReservedClear r → opInstr (reqOp r) (reqOperands r) = none := by
      rintro ⟨h0, h1, h2⟩
      rcases h with h | h | h | h
      · exact absurd h0 h
      · exact absurd h1 h
      · exact absurd h2 h
      · exact (opInstr_eq_none_iff _ _).2 h
    rw [step_illegal ha hs hr hq hc hi, illegalRequest_eq]
  · obtain ⟨i, hi, hst⟩ := hlegal h
    have hlong : t.cfg.bufMax < (reqOperands r).buf.length := hl.trans_eq hcount.symm
    rw [hst, exec_tooLong (s := t) hi hr hlong, operandError_eq]
  · obtain ⟨i, hi, hst⟩ := hlegal h
    have hmis : (reqOperands r).buf.length ≠ (reqOperands r).len.toNat := hcount.trans_ne he
    rw [hst, exec_lenMismatch (s := t) hi hop hr hmis, operandError_eq]

/-- Settles O8: each of the five reads its operand bytes alone. -/
theorem unusedOperandsIgnored : Obligations.UnusedOperandsIgnored := by
  rintro s ⟨cmd, id, len, buf⟩ ⟨cmd', id', len', -⟩ rfl
  exact ⟨rfl, rfl, rfl, rfl, rfl⟩

/-! Code bytes. -/

theorem unlessStopped_running {w : DecWork} (ht : w.term = false) (block : DecWork → DecWork) :
    unlessStopped w block = block w := by
  simp [unlessStopped, ht]

theorem decodeBlock_run {c : Byte} (h0 : c ≠ Config.DELIM) (hf : c ≠ Config.CODE_FULL) (w : DecWork) :
    decodeBlock c w = blockRun c w := by
  rw [decodeBlock, if_neg h0, if_neg hf]

/-- R71, R103: each class of code byte runs its own block. -/
theorem exec_decodeCodeByte (c : Byte) {s : State} (ht : s.codec.term = false) :
    exec (decodeCodeByte c) s = .next { s with codec := decodeBlock c s.codec } := by
  by_cases h0 : c = Config.DELIM
  · subst h0
    rfl
  · by_cases hf : c = Config.CODE_FULL
    · subst hf
      change execCodeFull s = .next { s with codec := blockFull s.codec }
      rw [execCodeFull, unlessStopped_running ht]
    · rw [decodeCodeByte_run h0 hf, decodeBlock_run h0 hf]
      change execCodeRun c s = .next { s with codec := blockRun c s.codec }
      rw [execCodeRun, unlessStopped_running ht]

/-- R103: a code byte's move is one iteration of the loop on the working buffer. -/
theorem step_codeByte {s : State} {ms : List Move} (ha : configAdmitted s = true)
    (hs : s.sched = .codeByte :: ms) :
    step s = .next { s with sched := ms, codec := decodeStep s.codec } := by
  by_cases hstop : s.codec.Stopped
  · rw [decodeStep_of_stopped hstop]
    exact step_answer ha hs (fetchCode_stopped (s := { s with sched := ms }) hstop)
  · obtain ⟨ht, hr⟩ := not_or.1 hstop
    have ht : s.codec.term = false := by simpa using ht
    obtain ⟨c, tl, hr⟩ := List.exists_cons_of_ne_nil hr
    rw [decodeStep_cons ht hr, step_run ha hs (fetchCode_byte (s := { s with sched := ms }) ht hr)]
    exact exec_decodeCodeByte c ht

/-- R103: as many code bytes' moves are as many iterations. -/
theorem run_codeBytes (n : Nat) : ∀ {s : State} {ms : List Move}, configAdmitted s = true →
    s.sched = List.replicate n Move.codeByte ++ ms →
    Host.Core.run Sys2Proof.core n s = .next { s with sched := ms, codec := decodeLoop n s.codec } := by
  induction n with
  | zero =>
    rintro s ms - rfl
    rfl
  | succ n ih =>
    intro s ms ha hs
    rw [run_succ (step_codeByte ha hs)]
    exact ih ha rfl

/-- Settles O14: `len(e)` code bytes' moves are the loop of `cobs_decode(e)`. -/
theorem codeBytesComputeDecode : Obligations.CodeBytesComputeDecode := by
  intro e s ms ha he hs
  refine ⟨_, run_codeBytes e.length ha hs, rfl, ?_⟩
  rw [he]
  rfl

end Sys2Proof.Machine
end

section
/-! The fields of a packed response and the bytes of a packet, read back (R63 to R66, R76). -/

namespace Sys2Proof.Machine

/-! Responses (R63). -/

theorem rspTerm_packRsp (f : RspFields) : rspTerm (packRsp f) = f.term := by
  simp [rspTerm, packRsp, packRsp0, BitVec.getLsbD_of_ge]

theorem rspTrunc_packRsp (f : RspFields) : rspTrunc (packRsp f) = f.trunc := by
  simp [rspTrunc, packRsp, packRsp0, BitVec.getLsbD_of_ge]

theorem rspEmpty_packRsp (f : RspFields) : rspEmpty (packRsp f) = f.empty := by
  simp [rspEmpty, packRsp, packRsp0, BitVec.getLsbD_of_ge]

theorem rspCmd_packRsp (f : RspFields) : rspCmd (packRsp f) = f.rcmd := by
  ext i hi
  have h : 8 + i < 16 ∧ 8 + i < 32 ∧ 4 ≤ 8 + i ∧ 8 + i - 4 ≠ 0 ∧ 8 + i - 5 ≠ 0 ∧ 8 + i - 6 ≠ 0 := by omega
  simp [rspCmd, packRsp, packRsp0, h, BitVec.getLsbD_of_ge, hi]

theorem rspId_packRsp (f : RspFields) : rspId (packRsp f) = f.rid := by
  ext i hi
  have h : ¬ 16 + i < 16 ∧ 16 + i < 32 ∧ 4 ≤ 16 + i ∧ 8 ≤ 16 + i - 8 ∧ i < 32 ∧
      16 + i - 4 ≠ 0 ∧ 16 + i - 5 ≠ 0 ∧ 16 + i - 6 ≠ 0 := by omega
  simp [rspId, packRsp, packRsp0, h, BitVec.getLsbD_of_ge, hi]

theorem rspVal_packRsp (f : RspFields) : rspVal (packRsp f) = f.val := by
  ext i hi
  have h : i < 16 ∧ i < 32 := by omega
  simp [rspVal, packRsp, packRsp1, h, BitVec.getLsbD_eq_getElem hi]

/-- Settles O5, field by field. -/
theorem responseFieldsReadBack : Obligations.ResponseFieldsReadBack := fun f =>
  ⟨rspStatus_packRsp f, rspTerm_packRsp f, rspTrunc_packRsp f, rspEmpty_packRsp f, rspCmd_packRsp f,
    rspId_packRsp f, rspVal_packRsp f, rspLen_packRsp f, rfl, rspReservedClear_packRsp f⟩

/-- Settles O6. -/
theorem statusAndEventCodes : Obligations.StatusAndEventCodes := ⟨rfl, rfl⟩

/-! Packets (R65, R66). -/

/-- The mask 0x1F keeps the five low bits. -/
theorem and_lowFive (b : Byte) : b &&& 0x1F#8 = (b.setWidth 5).setWidth 8 := by
  have hmask : 0x1F#8 = (BitVec.allOnes 5).setWidth 8 := rfl
  ext i hi
  simp only [hmask, BitVec.getElem_and, BitVec.getElem_setWidth, BitVec.getLsbD_setWidth,
    BitVec.getLsbD_allOnes, BitVec.getLsbD_eq_getElem hi]
  exact Bool.and_comm _ _

/-- R66: the header's bits 15:5 are the id's bits 10:0, its bits 4:0 the command's. -/
theorem getElem_packHeader (id : BitVec 13) (cmd : BitVec 8) {i : Nat} (hi : i < 16) :
    (packHeader id cmd)[i] = if i < 5 then cmd.getLsbD i else id.getLsbD (i - 5) := by
  by_cases h5 : i < 5
  · simp [packHeader, and_lowFive, h5]
  · simp [packHeader, and_lowFive, h5]

/-- R66: the high byte of the header is the id's bits 10:3. -/
theorem packHeader_high (id : BitVec 13) (cmd : BitVec 8) :
    (packHeader id cmd).extractLsb' 8 8 = id.extractLsb' 3 8 := by
  ext i hi
  have h : ¬ 8 + i < 5 ∧ 8 + i < 16 ∧ 8 + i - 5 = 3 + i := by omega
  simp [getElem_packHeader, h]

/-- R66: the low byte of the header is the id's bits 2:0, then the command's bits 4:0. -/
theorem packHeader_low (id : BitVec 13) (cmd : BitVec 8) :
    (packHeader id cmd).extractLsb' 0 8 = (id.extractLsb' 0 3 ++ cmd.extractLsb' 0 5 : BitVec 8) := by
  refine BitVec.eq_of_getLsbD_eq fun i hi => ?_
  refine .trans ?_ (BitVec.getLsbD_append (x := id.extractLsb' 0 3) (y := cmd.extractLsb' 0 5)).symm
  have h16 : i < 16 := by omega
  by_cases h5 : i < 5
  · simp [BitVec.getLsbD_eq_getElem h16, getElem_packHeader, h5, hi]
  · have h : i - 5 < 3 := by omega
    simp [BitVec.getLsbD_eq_getElem h16, getElem_packHeader, h5, h, hi]

theorem headerId_packHeader (id : BitVec 13) (cmd : BitVec 8) :
    headerId ((packHeader id cmd).extractLsb' 8 8) ((packHeader id cmd).extractLsb' 0 8) =
      id.setWidth 11 := by
  ext i hi
  by_cases h3 : i < 3
  · have h : 5 + i < 8 ∧ 5 + i < 11 ∧ 5 + i < 16 := by omega
    simp [headerId, getElem_packHeader, h3, h]
  · have h : ¬ 5 + i < 8 ∧ i - 3 < 8 ∧ i - 3 < 11 ∧ ¬ 8 + (i - 3) < 5 ∧ 8 + (i - 3) < 16 ∧
        8 + (i - 3) - 5 = i := by omega
    simp [headerId, getElem_packHeader, h3, h]

theorem headerCmd_packHeader (id : BitVec 13) (cmd : BitVec 8) :
    headerCmd ((packHeader id cmd).extractLsb' 0 8) = cmd.setWidth 5 := by
  ext i hi
  have h : i < 8 ∧ i < 16 := by omega
  simp [headerCmd, and_lowFive, getElem_packHeader, hi, h]

/-- Settles O25: the packet's header bytes are those of R66's header value. -/
theorem packetLayout : Obligations.PacketLayout := by
  intro id cmd p _
  refine ⟨(packHeader id cmd).extractLsb' 8 8, (packHeader id cmd).extractLsb' 0 8, _, rfl,
    pktBuild_length id cmd p, packHeader_high id cmd, packHeader_low id cmd, ?_,
    headerId_packHeader id cmd, headerCmd_packHeader id cmd⟩
  simp [BitVec.xor_assoc]

end Sys2Proof.Machine
end

section
/-! The encoder's laws: the exact length of an encoding, its bounds, and one full block (R105, R116). -/

namespace Sys2Proof.Machine

open Sys2Proof.Safety

/-! The length (R105). -/

theorem encodeBlocks_length (x : List Byte) : ∀ lits : List Byte,
    (encodeBlocks lits x).length = lits.length + x.length + 1 + fullRuns lits.length x := by
  induction x with
  | nil =>
    intro lits
    simp [encodeBlocks, fullRuns]
  | cons b x ih =>
    intro lits
    have hnil := ih []
    simp only [List.length_nil] at hnil
    unfold encodeBlocks fullRuns
    split
    · simp only [List.length_append, List.length_cons]
      omega
    · split
      · split
        · subst_vars
          simp [fullRuns]
        · simp only [List.length_append, List.length_cons, List.length_nil]
          omega
      · have h := ih (lits ++ [b])
        rw [List.length_append, List.length_singleton] at h
        rw [List.length_cons]
        omega

/-- R105: `n + 1 + F`. -/
theorem cobsEncode_length (x : List Byte) : (cobsEncode x).length = x.length + 1 + fullRuns 0 x := by
  simpa [cobsEncode_eq_blocks] using encodeBlocks_length x []

/-- R105: a run is paid for by 254 bytes, and the last byte of the input ends none that counts. -/
theorem fullRuns_le (x : List Byte) : ∀ run : Nat, run < 254 → fullRuns run x ≤ (run + x.length - 1) / 254 := by
  induction x with
  | nil =>
    intro run _
    simp [fullRuns]
  | cons b x ih =>
    intro run hr
    have h0 := ih 0 (by omega)
    unfold fullRuns
    rw [List.length_cons]
    split
    · omega
    · split
      · split
        · subst_vars
          simp [fullRuns]
        · have hx : 0 < x.length := List.length_pos_iff.2 ‹_›
          omega
      · have h := ih (run + 1) (by omega)
        omega

/-- R105: with no zero byte the runs follow each other without a gap. -/
theorem fullRuns_of_no_zero (x : List Byte) : ∀ run : Nat, run < 254 → 0x00#8 ∉ x →
    fullRuns run x = (run + x.length - 1) / 254 := by
  induction x with
  | nil =>
    intro run hr _
    simp only [fullRuns, List.length_nil]
    omega
  | cons b x ih =>
    intro run hr hz
    obtain ⟨hb, hx⟩ := List.ne_and_not_mem_of_not_mem_cons hz
    unfold fullRuns
    rw [if_neg hb.symm, List.length_cons]
    split
    · have h := ih 0 (by omega) hx
      split
      · subst_vars
        simp [fullRuns]
        omega
      · have hx : 0 < x.length := List.length_pos_iff.2 ‹_›
        omega
    · have h := ih (run + 1) (by omega) hx
      omega

/-- R105: the upper bound, and where it is reached. -/
theorem cobsEncode_length_le_worst (x : List Byte) :
    (cobsEncode x).length ≤ x.length + 1 + (x.length - 1) / 254 := by
  have hlen := cobsEncode_length x
  have hruns := fullRuns_le x 0 (by omega)
  omega

theorem cobsEncode_length_of_no_zero {x : List Byte} (hz : 0x00#8 ∉ x) :
    (cobsEncode x).length = x.length + 1 + (x.length - 1) / 254 := by
  rw [cobsEncode_length, fullRuns_of_no_zero x 0 (by omega) hz, Nat.zero_add]

/-- Settles O16: the exact length, with the number of full runs bounded and, with no zero byte, computed. -/
theorem encodedLength : Obligations.EncodedLength := by
  refine ⟨cobsEncode_length, rfl, fun x _ => ⟨?_, cobsEncode_length_le_worst x⟩,
    fun x _ hz => cobsEncode_length_of_no_zero hz, fun x hl hz => ?_, fun maxPayload x hl => ⟨?_, by omega⟩⟩
  · rw [cobsEncode_length]
    omega
  · rw [cobsEncode_length_of_no_zero hz]
    omega
  · have h := cobsEncode_length_le_worst x
    omega

/-! No zero byte, and one full block (R104, R116). -/

/-- Settles O15. -/
theorem encodedHasNoZero : Obligations.EncodedHasNoZero := zero_not_mem_cobsEncode

/-- R102: input that ends exactly as a run completes costs that run's code byte alone. -/
theorem encodeBlocks_full (x : List Byte) : ∀ lits : List Byte, x ≠ [] → lits.length + x.length = 254 →
    0x00#8 ∉ x → encodeBlocks lits x = 0xFF#8 :: lits ++ x := by
  induction x with
  | nil =>
    intro lits hx
    exact absurd rfl hx
  | cons b x ih =>
    intro lits _ hl hz
    obtain ⟨hb, hz⟩ := List.ne_and_not_mem_of_not_mem_cons hz
    rw [List.length_cons] at hl
    unfold encodeBlocks
    rw [if_neg hb.symm]
    by_cases hx : x = []
    · subst hx
      rw [if_pos (by simpa using hl)]
      simp
    · have hpos : 0 < x.length := List.length_pos_iff.2 hx
      rw [if_neg (by omega), ih _ hx (by simp; omega) hz]
      simp

theorem cobsEncode_full {x : List Byte} (hl : x.length = 254) (hz : 0x00#8 ∉ x) :
    cobsEncode x = 0xFF#8 :: x := by
  have hx : x ≠ [] := by
    rintro rfl
    cases hl
  rw [cobsEncode_eq_blocks, encodeBlocks_full x [] hx (by simpa using hl) hz]
  rfl

end Sys2Proof.Machine
end

section
/-! The decoder's laws: it inverts the encoder, stops at a code byte 0x00, and never expands (R106, R107, R112,
R116). -/

namespace Sys2Proof.Machine

/-! The round trip (R106). -/

/-- R103: a block whose literals are all there, then the rest of the loop. -/
theorem decodeRun_block {c : Byte} (hc : c ≠ 0x00#8) {lits : List Byte} (hl : lits.length = c.toNat - 1)
    (tl out : List Byte) (prev : Byte) (trunc : Bool) :
    decodeRun { rest := c :: lits ++ tl, out := out, prev := prev, term := false, trunc := trunc } =
      decodeRun
        { rest := tl, out := out ++ (if prev ≠ 0xFF#8 then [0x00#8] else []) ++ lits, prev := c, term := false,
          trunc := false } := by
  rw [decodeRun_step, decodeStep_block hc hl]

/-- R110: the same for the code byte the encoder writes before fewer than 254 literals. -/
theorem decodeRun_run {lits : List Byte} (hl : lits.length < 254) (tl out : List Byte) (prev : Byte)
    (trunc : Bool) :
    decodeRun
        { rest := BitVec.ofNat 8 (lits.length + 1) :: lits ++ tl, out := out, prev := prev, term := false,
          trunc := trunc } =
      decodeRun
        { rest := tl, out := out ++ (if prev ≠ 0xFF#8 then [0x00#8] else []) ++ lits,
          prev := BitVec.ofNat 8 (lits.length + 1), term := false, trunc := false } := by
  refine decodeRun_block (ofNat_length_succ_ne_zero hl) ?_ tl out prev trunc
  rw [BitVec.toNat_ofNat]
  omega

theorem ofNat_length_succ_ne_full {lits : List Byte} (h : lits.length < 254) :
    BitVec.ofNat 8 (lits.length + 1) ≠ 0xFF#8 := by
  intro he
  have hn := congrArg BitVec.toNat he
  simp only [BitVec.toNat_ofNat] at hn
  omega

/-- R106, block by block: what the encoder wrote after the literals `lits` decodes to the zero the block before
stands for, `lits`, and the rest of the input. -/
theorem decodeRun_encodeBlocks (x : List Byte) : ∀ (lits out : List Byte) (prev : Byte) (trunc : Bool),
    lits.length < 254 →
    decodeResult (decodeRun
        { rest := encodeBlocks lits x, out := out, prev := prev, term := false, trunc := trunc }) =
      ⟨out ++ (if prev ≠ 0xFF#8 then [0x00#8] else []) ++ lits ++ x, false, false⟩ := by
  induction x with
  | nil =>
    intro lits out prev trunc hl
    have hblock := decodeRun_run hl [] out prev trunc
    rw [List.append_nil] at hblock
    rw [encodeBlocks, hblock, decodeRun_of_stopped (.inr rfl), decodeResult, List.append_nil]
  | cons b x ih =>
    intro lits out prev trunc hl
    unfold encodeBlocks
    by_cases hb : b = 0x00#8
    · subst hb
      rw [if_pos rfl, decodeRun_run hl, ih [] _ _ _ (by simp), if_pos (ofNat_length_succ_ne_full hl)]
      simp
    · rw [if_neg hb]
      by_cases hf : lits.length + 1 = 254
      · have hlits : (lits ++ [b]).length = (0xFF#8 : Byte).toNat - 1 := List.length_append.trans hf
        rw [if_pos hf, List.cons_append, decodeRun_block (by decide) hlits]
        by_cases hx : x = []
        · rw [if_pos hx, decodeRun_of_stopped (.inr rfl), hx]
          simp [decodeResult]
        · rw [if_neg hx, ih [] _ _ _ (by simp)]
          simp
      · rw [if_neg hf, ih _ _ _ _ (by simp; omega)]
        simp

/-- R106. -/
theorem cobsDecode_cobsEncode (x : List Byte) : cobsDecode (cobsEncode x) = ⟨x, false, false⟩ := by
  rw [cobsEncode_eq_blocks, cobsDecode_eq_run]
  exact decodeRun_encodeBlocks x [] [] 0xFF#8 false (by simp)

/-- Settles O17. -/
theorem decodeInvertsEncode : Obligations.DecodeInvertsEncode := cobsDecode_cobsEncode

/-! Lengths and non-canonical input (R107, R116). -/

/-- Settles O18. -/
theorem decodeNeverExpands : Obligations.DecodeNeverExpands :=
  ⟨cobsDecode_length_le, fun cap e _ he => (cobsDecode_length_le e).trans (by omega)⟩

/-- R110, R114: a last code byte 0x01 after a full block stands for no byte. -/
theorem cobsDecode_full_one {l : List Byte} (hl : l.length = 254) :
    cobsDecode (0xFF#8 :: l ++ [0x01#8]) = ⟨l, false, false⟩ := by
  have hone := decodeRun_block (c := 0x01#8) (by decide) (lits := []) rfl [] l 0xFF#8 false
  rw [cobsDecode_eq_run, DecWork.start, decodeRun_block (by decide) hl]
  refine (congrArg decodeResult hone).trans ?_
  rw [decodeRun_of_stopped (.inr rfl)]
  simp [decodeResult]

/-- Settles O19: the full block is its encoding, which decodes back; a trailing 0x01 adds nothing. -/
theorem decodeNotInjective : Obligations.DecodeNotInjective := by
  intro l hl hz
  have henc : cobsEncode l = 0xFF#8 :: l := cobsEncode_full hl hz
  refine ⟨cobsDecode_full_one hl, henc ▸ cobsDecode_cobsEncode l, henc, ?_⟩
  rw [henc]
  simp

/-! Stopping (R112). -/

theorem unlessStopped_stopped {w : DecWork} (ht : w.term = true) (block : DecWork → DecWork) :
    unlessStopped w block = w := by
  simp [unlessStopped, ht]

theorem blockTerm_stopped {w : DecWork} (ht : w.term = true) : blockTerm w = w := by
  rw [blockTerm, ← ht]

/-- R112: decoding ends at a code byte 0x00. -/
theorem decodeRun_zero (tl out : List Byte) (prev : Byte) (trunc : Bool) :
    decodeRun ⟨0x00#8 :: tl, out, prev, false, trunc⟩ = ⟨tl, out, prev, true, trunc⟩ := by
  rw [decodeRun_step, decodeStep_cons rfl rfl, decodeBlock_zero, decodeRun_of_stopped (.inl rfl)]

/-- R113: a block with too few bytes left is the last, and is reported. -/
theorem decodeRun_trunc {w : DecWork} {c : Byte} {tl : List Byte} (ht : w.term = false) (hr : w.rest = c :: tl)
    (hc : c ≠ 0x00#8) (hl : tl.length < c.toNat - 1) : (decodeRun w).trunc = true := by
  have hk : min (c.toNat - 1) tl.length = tl.length := by omega
  rw [decodeRun_step, decodeStep_cons ht hr, decodeBlock_of_ne hc, decodeRun_of_stopped (.inr ?_)]
  · simp only [blockLiterals, hk, hl, decide_true]
  · simp [blockLiterals, hk]

/-- R112: the code byte 0x00 after a complete sequence sets `term` and changes nothing else. -/
theorem decodeRun_append_zero (tl rest out : List Byte) (prev : Byte) (trunc : Bool)
    (hterm : (decodeRun ⟨rest, out, prev, false, trunc⟩).term = false)
    (htrunc : (decodeRun ⟨rest, out, prev, false, trunc⟩).trunc = false) :
    decodeRun ⟨rest ++ 0x00#8 :: tl, out, prev, false, trunc⟩ =
      { decodeRun ⟨rest, out, prev, false, trunc⟩ with rest := tl, term := true } := by
  induction hn : rest.length using Nat.strong_induction_on generalizing rest out prev trunc with
  | _ n ih =>
    subst hn
    cases rest with
    | nil =>
      rw [List.nil_append, decodeRun_zero, decodeRun_of_stopped (.inr rfl)]
    | cons c rest =>
      by_cases hc : c = 0x00#8
      · subst hc
        rw [decodeRun_zero] at hterm
        cases hterm
      · by_cases hl : rest.length < c.toNat - 1
        · cases (decodeRun_trunc rfl rfl hc hl).symm.trans htrunc
        · obtain ⟨lits, rest, rfl, hlits⟩ : ∃ l r, rest = l ++ r ∧ l.length = c.toNat - 1 :=
            ⟨_, _, (List.take_append_drop (c.toNat - 1) rest).symm, by simp; omega⟩
          simp only [← List.cons_append, List.append_assoc, decodeRun_block hc hlits] at hterm htrunc ⊢
          exact ih rest.length (by simp) rest _ c false hterm htrunc rfl

/-- Settles O12. -/
theorem codeTermStops : Obligations.CodeTermStops := by
  refine ⟨fun _ => rfl, fun e tl htrunc hterm => ?_, fun s ht => ⟨?_, fun c => ?_, ?_⟩, by decide⟩
  · have h := decodeRun_append_zero tl e [] 0xFF#8 false hterm htrunc
    exact (congrArg decodeResult h).trans (congrArg (DecResult.mk _ true) htrunc)
  · change execCodeTerm s = .next s
    rw [execCodeTerm, blockTerm_stopped ht]
  · change execCodeRun c s = .next s
    rw [execCodeRun, unlessStopped_stopped ht]
  · change execCodeFull s = .next s
    rw [execCodeFull, unlessStopped_stopped ht]

end Sys2Proof.Machine
end

section
/-! The codec's instructions: the answers of ENCODE and DECODE, and what the code-byte instructions write
(R63, R100, R101, R103, R110, R111, R113). -/

namespace Sys2Proof.Machine

/-! ENCODE and DECODE (R100, R101). -/

/-- R63: the response OK of an operation of the codec, bit for bit. -/
theorem packRsp_ok (term trunc empty : Bool) (rbuf : List Byte) :
    packRsp { status := .ok, term := term, trunc := trunc, empty := empty, rbuf := rbuf } =
      ⟨(BitVec.ofBool term).setWidth 32 <<< 4 ||| (BitVec.ofBool trunc).setWidth 32 <<< 5 |||
          (BitVec.ofBool empty).setWidth 32 <<< 6,
        (BitVec.ofNat 16 rbuf.length).setWidth 32 <<< 16, rbuf⟩ := by
  simp [packRsp, packRsp0, packRsp1, statusCode]

/-- R62.2: the answer, as one record, of an operation on `buf` that only responds. -/
theorem withBuf_respond {s : State} (h : readyC s = true) (o : Operands) (f : RspFields) :
    withBuf o s (respond f) = .next { s with
      cRsp := some (if s.cfg.bufMax < o.buf.length then ⟨0x0000000A#32, 0#32, []⟩ else packRsp f) } := by
  by_cases hl : s.cfg.bufMax < o.buf.length
  · rw [withBuf_tooLong h hl, operandError_eq, if_pos hl]
  · rw [withBuf_rule h (Nat.not_lt.1 hl), respond, if_neg hl]

/-- Settles O10. -/
theorem encodeAnswers : Obligations.EncodeAnswers := by
  refine ⟨fun s o h => ?_, by decide, by decide, zero_not_mem_cobsEncode, fun _ => cobsEncode_full⟩
  change withBuf o s (respond _) = _
  rw [withBuf_respond h, packRsp_ok]
  rfl

/-- Settles O11. -/
theorem decodeAnswers : Obligations.DecodeAnswers := by
  refine ⟨fun s o h => ?_, by decide, by decide, by decide, by decide, by decide, by decide⟩
  have hempty (l : List Byte) : decide (l.length = 0) = l.isEmpty := by
    cases l <;> rfl
  change withBuf o s (respond _) = _
  rw [withBuf_respond h, packRsp_ok, hempty]

/-! Code bytes (R103, R110, R111, R113). -/

/-- R103: a block as one record: the zero before it, the literals there are, and whether any is missing. -/
theorem blockLiterals_eq (c : Byte) {w : DecWork} (ht : w.term = false) :
    blockLiterals c w =
      { rest := w.rest.drop (min (c.toNat - 1) w.rest.length),
        out := w.out ++ (if w.prev = 0xFF#8 then [] else [0x00#8]) ++
          w.rest.take (min (c.toNat - 1) w.rest.length),
        prev := c, term := false, trunc := decide (w.rest.length < c.toNat - 1) } := by
  have htrunc : min (c.toNat - 1) w.rest.length < c.toNat - 1 ↔ w.rest.length < c.toNat - 1 := by omega
  simp only [blockLiterals, ne_eq, ite_not, htrunc, ht]

/-- Settles O13. -/
theorem codeBlocksCopyLiterals : Obligations.CodeBlocksCopyLiterals := by
  intro s c ht _ k t
  refine ⟨fun _ => ?_, ?_⟩
  · change execCodeRun c s = .next t
    rw [execCodeRun, unlessStopped_running ht, blockRun, blockLiterals_eq c ht]
  · rintro rfl
    change execCodeFull s = .next t
    rw [execCodeFull, unlessStopped_running ht, blockFull, blockLiterals_eq 0xFF#8 ht]

theorem codecAlone_of_next {s t : State} {w : DecWork}
    (h : (.next { s with codec := w } : Host.Outcome State Fault Refusal) = .next t) :
    t = { s with codec := t.codec } ∧ ∀ a, Memory.read t.cursorBuf a = Memory.read s.cursorBuf a := by
  cases h
  exact ⟨rfl, fun _ => rfl⟩

/-- Settles O48: each of the three writes the field `codec` alone. -/
theorem codeByteFrame : Obligations.CodeByteFrame := by
  rintro s t c (h | h | h)
  · exact codecAlone_of_next h
  · exact codecAlone_of_next h
  · exact codecAlone_of_next h

end Sys2Proof.Machine
end

section
/-! The checksum: what it is over lists (R132), what it detects (R133, R134), and the answers of CHKSUM and
CHKVERIFY (R130, R131). -/

namespace Sys2Proof.Machine

/-! The checksum (R132). -/

theorem chk_perm {l l' : List Byte} (h : l.Perm l') : chk l = chk l' :=
  h.foldl_op_eq

/-- Settles O22; R142 appends to a packet's body that body's checksum. -/
theorem checksumIsXorInAnyOrder : Obligations.ChecksumIsXorInAnyOrder :=
  ⟨chk_nil, chk_cons, fun _ _ => chk_perm, fun _ _ _ => ⟨_, rfl⟩⟩

/-! Detection (R133, R134). -/

/-- R133: a sequence followed by `c` checks to 0x00 exactly when `c` is its checksum. -/
theorem chk_concat_eq_zero_iff (l : List Byte) (c : Byte) : chk (l ++ [c]) = 0x00#8 ↔ chk l = c := by
  rw [chk_append, chk_cons, chk_nil, BitVec.xor_zero, BitVec.xor_eq_zero_iff]

/-- Settles O23. -/
theorem trailingChecksumMatchesIffZero : Obligations.TrailingChecksumMatchesIffZero :=
  fun l c => (chk_concat_eq_zero_iff l c).symm

/-- The checksum of the changes, byte by byte, is the change of the checksum. -/
theorem chk_zipWith_xor (p : List Byte) : ∀ q : List Byte, p.length = q.length →
    chk (List.zipWith (fun a b => a ^^^ b) p q) = chk p ^^^ chk q := by
  induction p with
  | nil =>
    intro q h
    obtain rfl := List.length_eq_zero_iff.1 h.symm
    rfl
  | cons a p ih =>
    intro q h
    cases q with
    | nil => cases h
    | cons b q =>
      rw [List.zipWith_cons_cons, chk_cons, chk_cons, chk_cons, ih q (Nat.succ.inj h)]
      ac_rfl

/-- One byte taken out of a sequence. -/
theorem chk_middle (a z : List Byte) (b : Byte) : chk (a ++ b :: z) = b ^^^ chk (a ++ z) :=
  (chk_perm List.perm_middle).trans (chk_cons _ _)

/-- Two bytes taken out of a sequence: they enter its checksum by their exclusive or alone. -/
theorem chk_middle_pair (x y z : List Byte) (b c : Byte) :
    chk (x ++ b :: y ++ c :: z) = (b ^^^ c) ^^^ chk (x ++ y ++ z) := by
  rw [chk_middle, List.append_assoc, List.cons_append, chk_middle, List.append_assoc]
  ac_rfl

/-- The same bits flipped in two bytes leave their exclusive or. -/
theorem xor_flip_both (b c d : Byte) : (b ^^^ d) ^^^ (c ^^^ d) = b ^^^ c := by
  calc (b ^^^ d) ^^^ (c ^^^ d) = (b ^^^ c) ^^^ (d ^^^ d) := by ac_rfl
    _ = b ^^^ c := by rw [BitVec.xor_self, BitVec.xor_zero]

/-- Settles O24. -/
theorem checksumDetection : Obligations.ChecksumDetection := by
  refine ⟨fun p q h hp => ?_, fun a z b c hb hbc hc => hbc ?_, fun x y z b c => ?_, fun x y z b c d => ?_⟩
  · rw [chk_zipWith_xor p q h, hp, BitVec.zero_xor]
  · rw [chk_middle, BitVec.xor_eq_zero_iff] at hb hc
    exact hb.trans hc.symm
  · rw [chk_middle_pair, chk_middle_pair, BitVec.xor_comm b c]
  · rw [chk_middle_pair, chk_middle_pair, xor_flip_both]

/-! CHKSUM and CHKVERIFY (R130, R131). -/

/-- R63: a response of the checksum unit, bit for bit: a status and `val`. -/
theorem packRsp_status_val (st : Status) (x : Byte) :
    packRsp { status := st, val := x } = ⟨(statusCode st).setWidth 32, x.setWidth 32, []⟩ := by
  simp [packRsp, packRsp0, packRsp1]

theorem chk_replicate_even (b : Byte) (n : Nat) : chk (List.replicate (2 * n) b) = 0x00#8 := by
  rw [two_mul, List.replicate_add, chk_append, BitVec.xor_self]

/-- Settles O20. -/
theorem chksumAnswers : Obligations.ChksumAnswers := by
  refine ⟨fun s o h => ?_, chk_nil, fun l => (chk_concat_eq_zero_iff l _).2 rfl, chk_replicate_even,
    by decide⟩
  change withBuf o s (respond _) = _
  rw [withBuf_respond h, packRsp_status_val]
  rfl

/-- R131: without a byte there is no checksum to compare. -/
theorem chkverifyRule_nil {o : Operands} (ho : o.buf = []) (s : State) :
    chkverifyRule o s = respond { status := .malformed } s := by
  simp [chkverifyRule, ho]

/-- R131: the last byte is compared with the checksum of the bytes before it. -/
theorem chkverifyRule_concat {o : Operands} {l : List Byte} {c : Byte} (ho : o.buf = l ++ [c]) (s : State) :
    chkverifyRule o s =
      respond { status := if chk l = c then .ok else .checksumError, val := chk l } s := by
  by_cases hc : chk l = c
  · simp [chkverifyRule, ho, hc]
  · simp [chkverifyRule, ho, hc]

/-- R131: CHKVERIFY is its rule under the operand contract. -/
theorem exec_chkverify (o : Operands) (s : State) :
    exec (.chkverify o) s = withBuf o s (chkverifyRule o) := rfl

/-- Settles O21: the operand contract, then the rule for no byte and for a last byte. -/
theorem chkverifyAnswers : Obligations.ChkverifyAnswers := by
  refine fun s o h => ⟨fun hl => ?_, fun hl ho => ?_, fun l c hl ho => ?_⟩
  · rw [exec_chkverify, withBuf_tooLong h hl, operandError_eq]
  · rw [exec_chkverify, withBuf_rule h hl, chkverifyRule_nil ho]
    rfl
  · rw [exec_chkverify, withBuf_rule h hl, chkverifyRule_concat ho, respond, packRsp_status_val,
      apply_ite statusCode, apply_ite (BitVec.setWidth 32)]
    rfl

end Sys2Proof.Machine
end

section
/-! Packets: what pkt_parse accepts and returns (R143, R144, R147, R149), and the answers of BUILD and PARSE
(R63, R140, R141). -/

namespace Sys2Proof.Machine

/-! The checks of pkt_parse (R143, R144). -/

/-- R143: fewer than four bytes, or a length byte that does not count the payload. -/
abbrev SizeWrong (d : List Byte) : Prop := d.length < 4 ∨ (d.getD 2 0).toNat ≠ d.length - 4

/-- R143: the last byte is not the checksum of the bytes before it. -/
abbrev SumWrong (d : List Byte) : Prop := chk (d.take (d.length - 1)) ≠ d.getD (d.length - 1) 0

/-- R143: the header's id is not the board's. -/
abbrev IdWrong (d : List Byte) (bid : Nat) : Prop := (headerId (d.getD 0 0) (d.getD 1 0)).toNat ≠ bid

/-- R144: the first check that fails gives the verdict. -/
theorem pktParse_eq (d : List Byte) (bid : Nat) :
    pktParse d bid =
      if SizeWrong d then .error .malformed
      else if SumWrong d then .error .checksumError
      else if IdWrong d bid then .error .unrecognizedId
      else .ok { id := headerId (d.getD 0 0) (d.getD 1 0), cmd := headerCmd (d.getD 1 0), len := d.getD 2 0,
                 payload := (d.drop 3).take (d.getD 2 0).toNat } := by
  by_cases hl : d.length < 4
  · rw [pktParse, if_pos hl, if_pos (.inl hl)]
  · rw [pktParse, if_neg hl]
    simp only [SizeWrong, hl, false_or]

/-- Settles O27: the verdict of each check, then the three checks as propositions of their own. -/
theorem parsePrecedence : Obligations.ParsePrecedence := by
  intro d bid badSize badSum badId
  have hsize : badSize → pktParse d bid = .error .malformed := fun h1 => by rw [pktParse_eq, if_pos h1]
  have hsum : ¬ badSize → badSum → pktParse d bid = .error .checksumError := fun h1 h2 => by
    rw [pktParse_eq, if_neg h1, if_pos h2]
  have hid : ¬ badSize → ¬ badSum → badId → pktParse d bid = .error .unrecognizedId := fun h1 h2 h3 => by
    rw [pktParse_eq, if_neg h1, if_neg h2, if_pos h3]
  have hok : ¬ badSize → ¬ badSum → ¬ badId → ∃ r, pktParse d bid = .ok r := fun h1 h2 h3 =>
    ⟨_, by rw [pktParse_eq, if_neg h1, if_neg h2, if_neg h3]⟩
  clear_value badSize badSum badId
  by_cases h1 : badSize
  · simp [hsize h1, h1]
  · by_cases h2 : badSum
    · simp [hsum h1 h2, h1, h2]
    · by_cases h3 : badId
      · simp [hid h1 h2 h3, h1, h2, h3]
      · obtain ⟨r, hr⟩ := hok h1 h2 h3
        simp [hr, h1, h2, h3]

/-! A packet byte by byte (R65, R66). -/

/-- R65: the bytes of a packet: header, length, payload, checksum. -/
def packetBytes (b0 b1 l : Byte) (p : List Byte) (c : Byte) : List Byte := b0 :: b1 :: l :: p ++ [c]

theorem exists_packetBytes {d : List Byte} (h : 4 ≤ d.length) :
    ∃ b0 b1 l p c, d = packetBytes b0 b1 l p c := by
  match d, h with
  | b0 :: b1 :: l :: b :: tl, _ =>
    have hne : b :: tl ≠ [] := List.cons_ne_nil b tl
    refine ⟨b0, b1, l, (b :: tl).dropLast, (b :: tl).getLast hne, ?_⟩
    rw [packetBytes, List.cons_append, List.cons_append, List.cons_append, List.dropLast_append_getLast hne]

theorem pktBuild_packetBytes (id : BitVec 13) (cmd : BitVec 8) (p : List Byte) :
    pktBuild id cmd p =
      let b0 := (packHeader id cmd).extractLsb' 8 8
      let b1 := (packHeader id cmd).extractLsb' 0 8
      let l := BitVec.ofNat 8 p.length
      packetBytes b0 b1 l p (chk (b0 :: b1 :: l :: p)) := rfl

/-- R143, R144: pkt_parse of a sequence of at least four bytes. -/
theorem pktParse_packetBytes (b0 b1 l : Byte) (p : List Byte) (c : Byte) (bid : Nat) :
    pktParse (packetBytes b0 b1 l p c) bid =
      if l.toNat ≠ p.length then .error .malformed
      else if chk (b0 :: b1 :: l :: p) ≠ c then .error .checksumError
      else if (headerId b0 b1).toNat ≠ bid then .error .unrecognizedId
      else .ok { id := headerId b0 b1, cmd := headerCmd b1, len := l, payload := p } := by
  have hsize : SizeWrong (packetBytes b0 b1 l p c) ↔ l.toNat ≠ p.length := by
    simp [SizeWrong, packetBytes]
  have hsum : SumWrong (packetBytes b0 b1 l p c) ↔ chk (b0 :: b1 :: l :: p) ≠ c := by
    simp [SumWrong, packetBytes]
  rw [pktParse_eq]
  by_cases hl : l.toNat = p.length
  · simp only [hsize, hsum]
    simp [IdWrong, packetBytes, hl]
  · rw [if_pos (hsize.2 hl), if_pos hl]

/-- Settles O29: the packet's length byte and checksum agree, so the id alone decides. -/
theorem parseInvertsBuild : Obligations.ParseInvertsBuild := by
  intro id cmd p bid hp
  have hlen : (BitVec.ofNat 8 p.length).toNat = p.length := Nat.mod_eq_of_lt (by omega)
  have hid : (id.setWidth 11).toNat = id.toNat % 2048 := BitVec.toNat_setWidth 11 id
  rw [pktBuild_packetBytes, pktParse_packetBytes, headerId_packHeader, headerCmd_packHeader, hid,
    if_neg (not_not.2 hlen), if_neg (not_not.2 rfl), ite_not]

/-- R66: the header made of the fields read from two bytes is those bytes. -/
theorem packHeader_headerFields (b0 b1 : Byte) :
    packHeader ((headerId b0 b1).setWidth 13) ((headerCmd b1).setWidth 8) = b0 ++ b1 := by
  ext i hi
  rw [getElem_packHeader, BitVec.getElem_append]
  by_cases h5 : i < 5
  · have h8 : i < 8 := by omega
    simp [headerCmd, and_lowFive, h5, h8]
  · by_cases h8 : i < 8
    · have h : i - 5 < 3 ∧ i - 5 < 11 ∧ 5 + (i - 5) = i ∧ i < 13 := by omega
      simp [headerId, h5, h8, h, BitVec.getLsbD_eq_getElem]
    · have h : ¬ i - 5 < 3 ∧ i - 5 - 3 = i - 8 ∧ i - 5 < 11 ∧ i - 5 < 13 ∧
          5 + (i - 5) = i ∧ 8 ≤ i ∧ i - 8 < 8 := by omega
      simp [headerId, h5, h8, h, BitVec.getLsbD_of_ge, BitVec.getLsbD_eq_getElem]

/-- R65, R66: a packet is built again from the fields read from its bytes. -/
theorem pktBuild_headerFields (b0 b1 : Byte) (p : List Byte) :
    pktBuild ((headerId b0 b1).setWidth 13) ((headerCmd b1).setWidth 8) p =
      packetBytes b0 b1 (BitVec.ofNat 8 p.length) p (chk (b0 :: b1 :: BitVec.ofNat 8 p.length :: p)) := by
  rw [pktBuild_packetBytes, packHeader_headerFields, BitVec.extractLsb'_append_eq_left,
    BitVec.extractLsb'_append_eq_right]

/-- R143: what pkt_parse accepts, byte by byte. -/
theorem pktParse_packetBytes_ok {b0 b1 l c : Byte} {p : List Byte} {bid : Nat} {r : Parsed}
    (h : pktParse (packetBytes b0 b1 l p c) bid = .ok r) :
    l.toNat = p.length ∧ chk (b0 :: b1 :: l :: p) = c ∧ (headerId b0 b1).toNat = bid ∧
      r = { id := headerId b0 b1, cmd := headerCmd b1, len := l, payload := p } := by
  rw [pktParse_packetBytes] at h
  split_ifs at h with hl hc hid
  cases h
  exact ⟨not_not.1 hl, not_not.1 hc, not_not.1 hid, rfl⟩

/-- Settles O28: what is accepted is rebuilt from its bytes; what is built is parsed by O29. -/
theorem parseAcceptsExactlyPackets : Obligations.ParseAcceptsExactlyPackets := by
  intro d bid r
  constructor
  · intro h
    obtain ⟨hlen, hsize⟩ := pktParse_ok_length h
    obtain ⟨b0, b1, l, p, c, rfl⟩ := exists_packetBytes (d := d) (by omega)
    obtain ⟨hl, hc, hid, rfl⟩ := pktParse_packetBytes_ok h
    have hl' : BitVec.ofNat 8 p.length = l := by rw [← hl, BitVec.ofNat_toNat, BitVec.setWidth_eq]
    exact ⟨hid, hlen, by rw [pktBuild_headerFields, hl', hc]⟩
  · rintro ⟨hid, hlen, rfl⟩
    have hbyte : r.payload.length ≤ 255 := by omega
    have hmod : (r.id.setWidth 13).toNat % 2048 = bid := by
      rw [BitVec.toNat_setWidth_of_le (by omega), hid]
      omega
    rw [parseInvertsBuild _ _ _ bid hbyte, if_pos hmod, ← hlen]
    simp

/-- What a frame delivers: its bytes bound the payload (R107, R145), and its id is one BOARD_ID holds (R250). -/
theorem rxFrame_message {f : List Byte} {s : State} {m : Msg} (hp : s.rxPend = none)
    (hm : (rxFrame f s).rxPend = some m) :
    m.mlen.toNat = m.payload.length ∧ m.payload.length + 5 ≤ f.length ∧
      m.mid.toNat ∈ s.boardId :: s.boardIdAlso := by
  rcases rxFrame_cases f s with ⟨e, he | he⟩ | ⟨r, hr, he⟩ <;> rw [he] at hm
  · rw [emitR_rxPend, hp] at hm
    cases hm
  · rw [emitR_rxPend, afterBoardIdR_rxPend, hp] at hm
    cases hm
  · cases hm
    obtain ⟨hlen, hsize⟩ := pktParse_ok_length hr
    obtain ⟨hid, -, -⟩ := (parseAcceptsExactlyPackets _ _ r).1 hr
    have hdec := cobsDecode_length_le f
    have hmid : (r.id.setWidth 13).toNat = boardIdR s := by
      rw [BitVec.toNat_setWidth_of_le (by omega), hid]
    exact ⟨hlen, by simp only [parsedMsg]; omega, hmid ▸ drawBoardId_mem _ s⟩

/-- Settles O38: the frame is shorter than CURSOR_CAP. -/
theorem receivedLengthBounded : Obligations.ReceivedLengthBounded := by
  intro s t m hi hp ht hm
  have hr : readyR s = true := (readyR_iff s).2 hp
  by_cases h0 : s.cursorIdx = 0
  · cases (execRxDelim_empty hr h0).symm.trans ht
    rw [emitR_rxPend, hp] at hm
    cases hm
  · cases (execRxDelim_of_le hr h0 (by omega)).symm.trans ht
    obtain ⟨hlen, hsize, hid⟩ := rxFrame_message (s := { s with cursorIdx := 0 }) hp hm
    rw [List.length_map, List.length_range] at hsize
    exact ⟨hlen, by omega, hid⟩

/-! BUILD and PARSE (R140, R141). -/

/-- R62: BUILD and SEND answer OPERAND_ERROR for a broken operand contract. -/
theorem withPayload_operandError {s : State} {o : Operands} (h : readyC s = true)
    (hc : s.cfg.bufMax < o.buf.length ∨ o.buf.length ≠ o.len.toNat) (rule : State → State) :
    withPayload o s rule = .next (operandError s) := by
  rcases hc with hl | he
  · exact withPayload_tooLong h hl rule
  · exact withPayload_mismatch h he rule

/-- R140: BUILD is its rule under the operand contract. -/
theorem exec_build (o : Operands) (s : State) : exec (.build o) s = withPayload o s (buildRule o) := rfl

/-- Settles O26: the operand contract, the payload bound, the packet. -/
theorem buildAnswers : Obligations.BuildAnswers := by
  refine ⟨fun s o h => ?_, by decide⟩
  rw [exec_build]
  by_cases hc : s.cfg.bufMax < o.buf.length ∨ o.buf.length ≠ o.len.toNat
  · rw [withPayload_operandError h hc, operandError_eq, if_pos hc]
  · obtain ⟨hl, he⟩ := not_or.1 hc
    rw [not_not] at he
    rw [withPayload_rule h (Nat.not_lt.1 hl) he, if_neg hc, buildRule]
    by_cases hm : s.cfg.maxPayload < o.len.toNat
    · rw [if_pos hm, if_pos hm]
      rfl
    · rw [if_neg hm, if_neg hm, respond, packRsp_ok, pktBuild_length, he]
      rfl

/-- R63: the response OK of PARSE, bit for bit. -/
theorem packRsp_parsed {r : Parsed} (h : r.len.toNat = r.payload.length) :
    packRsp { status := .ok, rid := r.id.setWidth 13, rcmd := r.cmd.setWidth 8, val := r.len,
              rbuf := r.payload } =
      ⟨r.cmd.setWidth 32 <<< 8 ||| r.id.setWidth 32 <<< 16,
        r.len.setWidth 32 ||| r.len.setWidth 32 <<< 16, r.payload⟩ := by
  simp [packRsp, packRsp0, packRsp1, statusCode, ← h]

/-- R141: PARSE is its rule under the operand contract. -/
theorem exec_parse (o : Operands) (s : State) : exec (.parse o) s = withBuf o s (parseRule o) := rfl

/-- Settles O30: the operand contract, then one response for each verdict. -/
theorem parseAnswers : Obligations.ParseAnswers := by
  refine fun s o h => ⟨fun hl => ?_, fun hl => ?_,
    fun hs => ⟨drawBoardId_stable hs _, afterBoardIdC_stable hs⟩, rfl⟩
  · rw [exec_parse, withBuf_tooLong h hl, operandError_eq]
  · rw [exec_parse, withBuf_rule h hl, parseRule]
    cases hr : pktParse o.buf (boardIdC s) with
    | ok r => simp only [respond, packRsp_parsed (pktParse_ok_length hr).1]
    | error e => cases e <;> rfl

end Sys2Proof.Machine
end

section
/-! Channels that wait (R166, R252), and the answers of the receive steps (R160 to R163). -/

namespace Sys2Proof.Machine

open Sys2Proof.Safety

/-! Busy channels (R166, R252). -/

theorem readyC_busy {s : State} (h : s.cPhase = .txWait ∨ s.cRsp ≠ none) : readyC s = false := by
  rw [Bool.eq_false_iff, ne_eq, readyC_iff]
  rintro ⟨hp, hr⟩
  rcases h with h | h
  · cases hp.symm.trans h
  · exact h hr

theorem withPayload_busy {s : State} (h : readyC s = false) (o : Operands) (rule : State → State) :
    withPayload o s rule = .next s :=
  withBuf_busy h o _

theorem exec_busyC {s : State} (h : readyC s = false) {i : Instr} (hi : isChanC i = true) :
    exec i s = .next s := by
  cases i with
  | encode o => exact withBuf_busy h o _
  | decode o => exact withBuf_busy h o _
  | chksum o => exact withBuf_busy h o _
  | chkverify o => exact withBuf_busy h o _
  | build o => exact withPayload_busy h o _
  | parse o => exact withBuf_busy h o _
  | send o => exact withPayload_busy h o _
  | rxDelim => cases hi
  | rxData b => cases hi
  | codeTerm => cases hi
  | codeRun c => cases hi
  | codeFull => cases hi

theorem exec_busyR {s : State} (h : readyR s = false) {i : Instr} (hi : isChanR i = true) :
    exec i s = .next s := by
  cases i with
  | rxDelim => exact execRxDelim_busy h
  | rxData b => exact execRxData_busy h b
  | encode o => cases hi
  | decode o => cases hi
  | chksum o => cases hi
  | chkverify o => cases hi
  | build o => cases hi
  | parse o => cases hi
  | send o => cases hi
  | codeTerm => cases hi
  | codeRun c => cases hi
  | codeFull => cases hi

theorem txHold_cReq (s : State) : (txHold s).cReq = s.cReq := by
  rcases txHold_cases s with ⟨-, h⟩ | ⟨-, h⟩
  · rw [h]
  · rw [h]
    rfl

/-- Settles O9: `exec` and the fetch both ask whether the channel is ready. -/
theorem busyChannelsWait : Obligations.BusyChannelsWait := by
  refine ⟨fun s hb => ?_, fun s m hm => ?_⟩
  · have hr : readyC s = false := readyC_busy hb
    have hidle : ∀ ms, configAdmitted s = true → s.cPhase = .idle → s.sched = .chanC :: ms →
        step s = .next { s with sched := ms } := fun ms ha hp hs =>
      step_answer ha hs (fetchC_pending (s := { s with sched := ms }) hp hr)
    refine ⟨fun i => exec_busyC hr, fun ms ha hs => ?_, hidle⟩
    cases hp : s.cPhase with
    | idle => exact ⟨_, hidle ms ha hp hs, rfl⟩
    | txWait =>
      exact ⟨_, step_answer ha hs (fetchC_wait (s := { s with sched := ms }) hp), txHold_cReq _⟩
  · have hr : readyR s = false := by simp [readyR, hm]
    exact ⟨fun i => exec_busyR hr,
      fun ms ha hs => step_answer ha hs (fetchR_busy (s := { s with sched := ms }) hr)⟩

/-! RX_DATA (R160). -/

/-- Settles O32. -/
theorem rxDataAnswers : Obligations.RxDataAnswers := by
  intro s b hb hp
  have hr : readyR s = true := (readyR_iff s).2 hp
  refine ⟨fun hi => ⟨_, execRxData_store hr hi b, fun i => ?_⟩,
    fun hi => execRxData_overflow hr (Nat.not_lt.2 hi) b⟩
  simp only [Memory.read_write_of_ne hb, eq_comm]

/-! RX_DELIM (R161, R162). -/

/-- R162: the frames answered DECODE_ERROR. -/
abbrev Undecodable (f : List Byte) (s : State) : Prop :=
  (cobsDecode f).out = [] ∨ ((cobsDecode f).trunc = true ∧ s.cfg.truncPolicy = .error)

theorem rxFrame_undecodable {f : List Byte} {s : State} (h : Undecodable f s) :
    rxFrame f s = emitR .decodeError s := by
  unfold rxFrame
  rcases h with h | h
  · simp [h]
  · simp [h]

theorem rxFrame_ok {f : List Byte} {s : State} (h : ¬ Undecodable f s) {r : Parsed}
    (hr : pktParse (cobsDecode f).out (boardIdR s) = .ok r) :
    rxFrame f s = { afterBoardIdR s with rxPend := some (parsedMsg r) } := by
  obtain ⟨hout, htrunc⟩ := not_or.1 h
  simp only [rxFrame, List.length_eq_zero_iff, if_neg hout, if_neg htrunc, hr]

theorem rxFrame_error {f : List Byte} {s : State} (h : ¬ Undecodable f s) {e : ParseError}
    (hr : pktParse (cobsDecode f).out (boardIdR s) = .error e) :
    rxFrame f s = emitR (parseEvent e) (afterBoardIdR s) := by
  obtain ⟨hout, htrunc⟩ := not_or.1 h
  simp only [rxFrame, List.length_eq_zero_iff, if_neg hout, if_neg htrunc, hr]

theorem afterBoardIdR_clearCursor (s : State) :
    afterBoardIdR { s with cursorIdx := 0 } = { afterBoardIdR s with cursorIdx := 0 } := by
  unfold afterBoardIdR
  split <;> rfl

theorem exec_rxDelim_empty {s : State} (hp : s.rxPend = none) (h0 : s.cursorIdx = 0) :
    exec .rxDelim s = .next (emitR .malformed s) :=
  execRxDelim_empty ((readyR_iff s).2 hp) h0

/-- R161: the bytes held are the frame. -/
theorem exec_rxDelim_frame {s : State} (hp : s.rxPend = none) (h0 : s.cursorIdx ≠ 0)
    (hi : s.cursorIdx ≤ s.cfg.cursorCap) :
    exec .rxDelim s = .next (rxFrame (cursorFrame s) { s with cursorIdx := 0 }) :=
  execRxDelim_of_le ((readyR_iff s).2 hp) h0 hi

/-- R112: a block takes bytes off the input, and only a code byte 0x00 stops the decoder. -/
theorem decodeStep_not_term {w : DecWork} (hz : 0x00#8 ∉ w.rest) (ht : w.term = false) :
    0x00#8 ∉ (decodeStep w).rest ∧ (decodeStep w).term = false := by
  cases hr : w.rest with
  | nil =>
    rw [decodeStep_of_stopped (.inr hr)]
    exact ⟨hz, ht⟩
  | cons c tl =>
    rw [hr] at hz
    obtain ⟨hc, htl⟩ := List.ne_and_not_mem_of_not_mem_cons hz
    rw [decodeStep_cons ht hr, decodeBlock_of_ne hc.symm]
    exact ⟨fun h => htl (List.mem_of_mem_drop h), ht⟩

theorem decodeLoop_not_term (n : Nat) : ∀ {w : DecWork}, 0x00#8 ∉ w.rest → w.term = false →
    (decodeLoop n w).term = false := by
  induction n with
  | zero => exact fun _ ht => ht
  | succ n ih =>
    intro w hz ht
    obtain ⟨hz', ht'⟩ := decodeStep_not_term hz ht
    exact ih hz' ht'

/-- R112, R162: a sequence with no 0x00 is decoded to its end. -/
theorem cobsDecode_not_term {e : List Byte} (hz : 0x00#8 ∉ e) : (cobsDecode e).term = false :=
  decodeLoop_not_term e.length (w := DecWork.start e) hz rfl

/-- Settles O33: the empty cursor, the frame that does not decode, then each verdict of pkt_parse. -/
theorem rxDelimAnswers : Obligations.RxDelimAnswers := by
  refine ⟨fun s hp hi => ?_, fun s hz => cobsDecode_not_term ?_, by decide, by decide⟩
  · by_cases h0 : s.cursorIdx = 0
    · rw [exec_rxDelim_empty hp h0, if_pos h0]
      rfl
    · rw [exec_rxDelim_frame hp h0 hi, if_neg h0]
      by_cases hu : Undecodable (cursorFrame s) s
      · rw [rxFrame_undecodable (s := { s with cursorIdx := 0 }) hu, if_pos hu]
        rfl
      · rw [if_neg hu]
        cases hr : pktParse (cobsDecode (cursorFrame s)).out (boardIdR s) with
        | ok r =>
          rw [rxFrame_ok (s := { s with cursorIdx := 0 }) hu hr, afterBoardIdR_clearCursor]
          rfl
        | error e =>
          rw [rxFrame_error (s := { s with cursorIdx := 0 }) hu hr, afterBoardIdR_clearCursor, emitR,
            afterBoardIdR_log]
          cases e <;> rfl
  · rw [cursorFrame, List.mem_map]
    rintro ⟨i, hi, h⟩
    exact hz i (List.mem_range.1 hi) h

/-! One outcome for a byte (R163). -/

theorem exec_rxData_outcome {s : State} (hp : s.rxPend = none) (b : Byte) :
    ∃ t, exec (.rxData b) s = .next t ∧ t.rxPend = none ∧
      (t.log.rEvt = s.log.rEvt ∨ t.log.rEvt = s.log.rEvt ++ [.rxOverflow]) := by
  have hr : readyR s = true := (readyR_iff s).2 hp
  by_cases hi : s.cursorIdx < s.cfg.cursorCap - 1
  · exact ⟨_, execRxData_store hr hi b, hp, .inl rfl⟩
  · exact ⟨_, execRxData_overflow hr hi b, hp, .inr rfl⟩

/-- R162: the outcomes of a completed frame in an empty cursor. -/
theorem rxFrame_outcome (f : List Byte) {s : State} (hp : s.rxPend = none) :
    ((rxFrame f s).rxPend = none ∧ ∃ e ∈ [Event.malformed, .decodeError, .checksumError, .unrecognizedId],
        (rxFrame f s).log.rEvt = s.log.rEvt ++ [e]) ∨
      ((rxFrame f s).log.rEvt = s.log.rEvt ∧ ∃ m, (rxFrame f s).rxPend = some m) := by
  by_cases hu : Undecodable f s
  · rw [rxFrame_undecodable hu]
    exact .inl ⟨hp, .decodeError, by decide, rfl⟩
  · cases hr : pktParse (cobsDecode f).out (boardIdR s) with
    | ok r =>
      rw [rxFrame_ok hu hr]
      exact .inr ⟨by rw [afterBoardIdR_log], _, rfl⟩
    | error e =>
      have he : parseEvent e ∈ [Event.malformed, .decodeError, .checksumError, .unrecognizedId] := by
        cases e <;> decide
      rw [rxFrame_error hu hr]
      exact .inl ⟨by simp [hp], parseEvent e, he, by simp⟩

theorem rxFrame_cursorIdx (f : List Byte) (s : State) : (rxFrame f s).cursorIdx = s.cursorIdx :=
  (congrArg State.cursorIdx (rxFrame_frame f s).1 :)

/-- Settles O34. -/
theorem oneOutcomePerByte : Obligations.OneOutcomePerByte := by
  intro s hp hi
  refine ⟨exec_rxData_outcome hp, ?_⟩
  by_cases h0 : s.cursorIdx = 0
  · exact ⟨_, exec_rxDelim_empty hp h0, h0, .inl ⟨hp, .malformed, by decide, rfl⟩⟩
  · exact ⟨_, exec_rxDelim_frame hp h0 hi, rxFrame_cursorIdx _ _, rxFrame_outcome _ hp⟩

end Sys2Proof.Machine
end

section
/-! Runs of data bytes (R160, R164): how often they overflow, and what they leave in the cursor when they
fit. -/

namespace Sys2Proof.Machine

open Sys2Proof.Safety

/-! One byte of a run. -/

/-- The step in which channel R takes a byte. -/
theorem step_byte {s : State} {b : Byte} {rest : List Byte} {ms : List Move} (ha : configAdmitted s = true)
    (hp : s.rxPend = none) (hq : s.rx = b :: rest) (hs : s.sched = .chanR :: ms) :
    step s = exec (decodeStreamByte b) { s with sched := ms, rx := rest } :=
  ((stepRunsDecodedInstruction s .chanR ms ha hs).2.1 b rest rfl ((readyR_iff s).2 hp) hq).2

theorem step_msgTake {s : State} {ms : List Move} (ha : configAdmitted s = true)
    (hs : s.sched = .msgTake :: ms) : step s = .next (takeMsg { s with sched := ms }) :=
  step_answer ha hs rfl

/-- With no message there is nothing to accept. -/
theorem step_msgTake_none {s : State} {ms : List Move} (ha : configAdmitted s = true) (hp : s.rxPend = none)
    (hs : s.sched = .msgTake :: ms) : step s = .next { s with sched := ms } :=
  (step_msgTake ha hs).trans (congrArg _ (takeMsg_none hp))

theorem step_data_store {s : State} {b : Byte} {rest : List Byte} {ms : List Move}
    (ha : configAdmitted s = true) (hp : s.rxPend = none) (hb : b ≠ 0x00#8)
    (hi : s.cursorIdx < s.cfg.cursorCap - 1) (hq : s.rx = b :: rest) (hs : s.sched = .chanR :: ms) :
    step s = .next { s with
      sched := ms, rx := rest, cursorBuf := Memory.write s.cursorBuf s.cursorIdx b,
      cursorIdx := s.cursorIdx + 1 } := by
  rw [step_byte ha hp hq hs, decodeStreamByte_data hb]
  exact execRxData_store (s := { s with sched := ms, rx := rest }) ((readyR_iff _).2 hp) hi b

theorem step_data_overflow {s : State} {b : Byte} {rest : List Byte} {ms : List Move}
    (ha : configAdmitted s = true) (hp : s.rxPend = none) (hb : b ≠ 0x00#8)
    (hi : ¬ s.cursorIdx < s.cfg.cursorCap - 1) (hq : s.rx = b :: rest) (hs : s.sched = .chanR :: ms) :
    step s = .next (emitR .rxOverflow { s with sched := ms, rx := rest, cursorIdx := 0 }) := by
  rw [step_byte ha hp hq hs, decodeStreamByte_data hb]
  exact execRxData_overflow (s := { s with sched := ms, rx := rest }) ((readyR_iff _).2 hp) hi b

theorem two_le_cursorCap {s : State} (ha : configAdmitted s = true) : 2 ≤ s.cfg.cursorCap := by
  obtain ⟨hparams, -, -⟩ := (configAdmitted_iff s).1 ha
  obtain ⟨-, -, hcap, -⟩ := (paramsAdmitted_iff s.cfg).1 hparams
  exact hcap

/-! The number of overflows (R164). -/

/-- Settles O35, byte by byte: a byte stored moves CURSOR_IDX by one, and the byte that finds it at
CURSOR_CAP - 1 brings it to 0, one multiple of CURSOR_CAP further. -/
theorem overflowCount : Obligations.OverflowCount := by
  intro bs
  induction bs with
  | nil =>
    intro rest s ms ha hp hi _ hq hs
    have hcap := two_le_cursorCap ha
    have hlt : s.cursorIdx < s.cfg.cursorCap := by omega
    refine ⟨s, rfl, ?_, ?_, rfl, hp, hq, hs⟩
    · simp [Nat.div_eq_of_lt hlt]
    · simp [Nat.mod_eq_of_lt hlt]
  | cons b bs ih =>
    intro rest s ms ha hp hi hz hq hs
    obtain ⟨hb, hz⟩ := List.ne_and_not_mem_of_not_mem_cons hz
    have hcap := two_le_cursorCap ha
    by_cases hlt : s.cursorIdx < s.cfg.cursorCap - 1
    · obtain ⟨t, hrun, hevt, hidx, hread, hend⟩ := ih rest
        { s with
          sched := List.replicate bs.length .chanR ++ ms, rx := bs ++ rest,
          cursorBuf := Memory.write s.cursorBuf s.cursorIdx b, cursorIdx := s.cursorIdx + 1 }
        ms ha hp hlt hz rfl rfl
      have hsum : s.cursorIdx + 1 + bs.length = s.cursorIdx + (b :: bs).length := by
        rw [List.length_cons]
        omega
      rw [hsum] at hevt hidx
      exact ⟨t, (run_succ (step_data_store ha hp hb.symm hlt hq hs) _).trans hrun, hevt, hidx,
        hread.trans (Memory.read_write_other hlt.ne _ b), hend⟩
    · obtain ⟨t, hrun, hevt, hidx, hread, hend⟩ := ih rest
        (emitR .rxOverflow
          { s with sched := List.replicate bs.length .chanR ++ ms, rx := bs ++ rest, cursorIdx := 0 })
        ms ha hp (Nat.zero_le _) hz rfl rfl
      have hsum : s.cursorIdx + (b :: bs).length = 0 + bs.length + s.cfg.cursorCap := by
        rw [List.length_cons]
        omega
      refine ⟨t, (run_succ (step_data_overflow ha hp hb.symm hlt hq hs) _).trans hrun, ?_, ?_, hread, hend⟩
      · rw [hsum, Nat.add_div_right _ (by omega), List.replicate_succ, hevt]
        simp
      · rw [hsum, Nat.add_mod_right, hidx]
        rfl

/-! Bytes that fit (R40, R160). -/

/-- R160: the cursor after the bytes are stored from index `i` on. -/
def Memory.writeBytes : Memory → Nat → List Byte → Memory
  | m, _, [] => m
  | m, i, b :: bs => Memory.writeBytes (Memory.write m i b) (i + 1) bs

theorem Memory.read_writeBytes_below (bs : List Byte) : ∀ (m : Memory) {i j : Nat}, j < i →
    Memory.read (Memory.writeBytes m i bs) j = Memory.read m j := by
  induction bs with
  | nil => exact fun _ _ _ _ => rfl
  | cons b bs ih =>
    intro m i j h
    rw [Memory.writeBytes, ih _ (by omega), Memory.read_write_other h.ne']

/-- R161: the bytes stored are read back in their order. -/
theorem Memory.map_read_writeBytes {bs : List Byte} (hz : 0x00#8 ∉ bs) : ∀ (m : Memory) (i : Nat),
    (List.range' i bs.length).map (Memory.read (Memory.writeBytes m i bs)) = bs := by
  induction bs with
  | nil => exact fun _ _ => rfl
  | cons b bs ih =>
    intro m i
    obtain ⟨hb, hz⟩ := List.ne_and_not_mem_of_not_mem_cons hz
    rw [List.length_cons, List.range'_succ, List.map_cons, Memory.writeBytes, ih hz,
      Memory.read_writeBytes_below bs _ (Nat.lt_succ_self i), Memory.read_write_of_ne hb.symm, if_pos rfl]

/-- The moves of one byte step: channel R's alone, or with the message accepted at once. -/
inductive ByteMoves : List Move → Prop where
  | alone : ByteMoves [.chanR]
  | taken : ByteMoves [.chanR, .msgTake]

theorem run_storedByte {mv : List Move} (hmv : ByteMoves mv) {s : State} {b : Byte} {rest : List Byte}
    {ms : List Move} (ha : configAdmitted s = true) (hp : s.rxPend = none) (hb : b ≠ 0x00#8)
    (hi : s.cursorIdx < s.cfg.cursorCap - 1) (hq : s.rx = b :: rest) (hs : s.sched = mv ++ ms) :
    Host.Core.run Sys2Proof.core mv.length s = .next { s with
      sched := ms, rx := rest, cursorBuf := Memory.write s.cursorBuf s.cursorIdx b,
      cursorIdx := s.cursorIdx + 1 } := by
  cases hmv with
  | alone => exact run_succ (step_data_store ha hp hb hi hq hs) 0
  | taken =>
    refine (run_succ (step_data_store ha hp hb hi hq hs) 1).trans ?_
    refine run_succ (step_msgTake_none ?_ ?_ rfl) 0
    · exact ha
    · exact hp

/-- R160: data bytes that the cursor has room for are stored, with no event. -/
theorem run_storedBytes {mv : List Move} (hmv : ByteMoves mv) (bs : List Byte) :
    ∀ {s : State} {rest : List Byte} {ms : List Move}, configAdmitted s = true → s.rxPend = none →
    0x00#8 ∉ bs → s.cursorIdx + bs.length ≤ s.cfg.cursorCap - 1 → s.rx = bs ++ rest →
    s.sched = (List.replicate bs.length mv).flatten ++ ms →
    Host.Core.run Sys2Proof.core (bs.length * mv.length) s = .next { s with
      sched := ms, rx := rest, cursorBuf := Memory.writeBytes s.cursorBuf s.cursorIdx bs,
      cursorIdx := s.cursorIdx + bs.length } := by
  induction bs with
  | nil =>
    rintro s rest ms - - - - rfl rfl
    rw [List.length_nil, Nat.zero_mul]
    rfl
  | cons b bs ih =>
    intro s rest ms ha hp hz hi hq hs
    obtain ⟨hb, hz⟩ := List.ne_and_not_mem_of_not_mem_cons hz
    rw [List.length_cons] at hi hs
    rw [List.replicate_succ, List.flatten_cons, List.append_assoc] at hs
    have hfirst := run_storedByte hmv ha hp hb.symm (by omega) hq hs
    rw [List.length_cons, Nat.add_one_mul, Nat.add_comm, run_add hfirst]
    have hi' : s.cursorIdx + 1 + bs.length ≤ s.cfg.cursorCap - 1 := by omega
    rw [ih (by exact ha) (by exact hp) hz (by exact hi') rfl rfl, Nat.add_right_comm, Nat.add_assoc]
    rfl

end Sys2Proof.Machine
end

section
/-! Frames received byte by byte (R165, R168): a run up to a frame's delimiter, the message or the event it
gives, and the bytes before it, whatever they are. -/

namespace Sys2Proof.Machine

open Sys2Proof.Safety

/-! A frame and its delimiter. -/

/-- Channel R can take a frame's first byte: the configuration is admitted, BOARD_ID stable, no message is on
`msg` and the cursor is empty. -/
structure AwaitsFrame (s : State) : Prop where
  admitted : configAdmitted s = true
  stable : s.boardIdAlso = []
  rxPend : s.rxPend = none
  cursorIdx : s.cursorIdx = 0

/-- The state at a frame's delimiter: the frame is stored and taken out of the cursor again, and nothing else
has happened yet. -/
def afterFrame (s : State) (e rest : List Byte) (ms : List Move) : State :=
  { s with sched := ms, rx := rest, cursorBuf := Memory.writeBytes s.cursorBuf 0 e, cursorIdx := 0 }

theorem AwaitsFrame.after {s : State} (h : AwaitsFrame s) (e rest : List Byte) (ms : List Move) :
    AwaitsFrame (afterFrame s e rest ms) :=
  ⟨h.admitted, h.stable, h.rxPend, rfl⟩

/-- R161: a frame that fits and its delimiter come to the frame's outcome. -/
theorem run_frame {mv : List Move} (hmv : ByteMoves mv) {e rest : List Byte} {s : State} {ms : List Move}
    (h : AwaitsFrame s) (hz : 0x00#8 ∉ e) (hne : e ≠ []) (hfit : e.length ≤ s.cfg.cursorCap - 1)
    (hq : s.rx = e ++ 0x00#8 :: rest)
    (hs : s.sched = (List.replicate e.length mv).flatten ++ .chanR :: ms) :
    Host.Core.run Sys2Proof.core (e.length * mv.length + 1) s = .next (rxFrame e (afterFrame s e rest ms)) := by
  obtain ⟨ha, -, hp, h0⟩ := h
  have hlen : 0 < e.length := List.length_pos_iff.2 hne
  have hstored := run_storedBytes hmv e ha hp hz (by omega) hq hs
  rw [h0, Nat.zero_add] at hstored
  rw [run_add hstored]
  refine run_succ ((step_byte (by exact ha) (by exact hp) rfl rfl).trans ?_) 0
  refine (exec_rxDelim_frame (by exact hp) hlen.ne' (by simp only; omega)).trans ?_
  have hread := Memory.map_read_writeBytes hz s.cursorBuf 0
  rw [← List.range_eq_range'] at hread
  rw [cursorFrame, hread]
  rfl

/-- The encoding of a packet always decodes, to a packet that is not empty. -/
theorem decodable_cobsEncode {d : List Byte} (hd : d ≠ []) (s : State) : ¬ Undecodable (cobsEncode d) s := by
  rw [Undecodable, cobsDecode_cobsEncode]
  simpa using hd

theorem cobsEncode_ne_nil (d : List Byte) : cobsEncode d ≠ [] := by
  rw [← List.length_pos_iff, cobsEncode_length]
  omega

theorem rxFrame_cobsEncode_ok {d : List Byte} (hd : d ≠ []) {s : State} (hb : s.boardIdAlso = []) {r : Parsed}
    (hr : pktParse d s.boardId = .ok r) :
    rxFrame (cobsEncode d) s = { s with rxPend := some (parsedMsg r) } := by
  have hid : boardIdR s = s.boardId := drawBoardId_stable hb _
  rw [rxFrame_ok (decodable_cobsEncode hd s) (by rw [cobsDecode_cobsEncode, hid, hr]), afterBoardIdR_stable hb]

theorem rxFrame_cobsEncode_error {d : List Byte} (hd : d ≠ []) {s : State} (hb : s.boardIdAlso = [])
    {e : ParseError} (hr : pktParse d s.boardId = .error e) :
    rxFrame (cobsEncode d) s = emitR (parseEvent e) s := by
  have hid : boardIdR s = s.boardId := drawBoardId_stable hb _
  rw [rxFrame_error (decodable_cobsEncode hd s) (by rw [cobsDecode_cobsEncode, hid, hr]),
    afterBoardIdR_stable hb]

/-! Packets for this board, and packets with a wrong checksum. -/

theorem pktBuild_ne_nil (id : BitVec 13) (cmd : BitVec 8) (p : List Byte) : pktBuild id cmd p ≠ [] := by
  rw [← List.length_pos_iff, pktBuild_length]
  omega

/-- R162: the message of a packet for the board `bid`. -/
def boardMsg (bid : Nat) (cmd : BitVec 8) (p : List Byte) : Msg :=
  ⟨BitVec.ofNat 13 bid, cmd.setWidth 5, BitVec.ofNat 8 p.length, p⟩

/-- R147: a packet built for the board is recognised and gives its message. -/
theorem pktParse_board {bid : Nat} (hbid : bid ≤ 2047) (cmd : BitVec 8) {p : List Byte}
    (hp : p.length ≤ 255) :
    ∃ r, pktParse (pktBuild (BitVec.ofNat 13 bid) cmd p) bid = .ok r ∧
      parsedMsg r = boardMsg bid cmd p := by
  have hid : (BitVec.ofNat 13 bid).toNat % 2048 = bid := by
    rw [BitVec.toNat_ofNat]
    omega
  have hwide : ((BitVec.ofNat 13 bid).setWidth 11).setWidth 13 = BitVec.ofNat 13 bid := by
    apply BitVec.eq_of_toNat_eq
    rw [BitVec.toNat_setWidth, BitVec.toNat_setWidth, BitVec.toNat_ofNat]
    omega
  refine ⟨_, (parseInvertsBuild _ cmd p bid hp).trans (if_pos hid), ?_⟩
  rw [parsedMsg, hwide]
  rfl

/-- R134, R144: a packet whose checksum byte alone was changed is answered CHECKSUM_ERROR, for any board. -/
theorem pktParse_flippedChecksum (id : BitVec 13) (cmd : BitVec 8) {p : List Byte} (hp : p.length ≤ 255)
    {c : Byte} (hc : c ≠ 0x00#8) (bid : Nat) :
    pktParse ((pktBuild id cmd p).dropLast ++ [(pktBuild id cmd p).getLastD 0x00#8 ^^^ c]) bid =
      .error .checksumError := by
  have hlen : (BitVec.ofNat 8 p.length).toNat = p.length := Nat.mod_eq_of_lt (by omega)
  have hflip (x : Byte) : x ≠ x ^^^ c := fun h =>
    hc ((BitVec.xor_right_inj x).1 (h.symm.trans BitVec.xor_zero.symm))
  rw [pktBuild_packetBytes]
  simp only [packetBytes, List.dropLast_concat, List.getLastD_concat]
  refine (pktParse_packetBytes _ _ _ p _ bid).trans ?_
  rw [if_neg (not_not.2 hlen), if_pos (hflip _)]

end Sys2Proof.Machine
end

section
/-! Delivery: a frame for this board after any bytes (R165), after a frame with a wrong checksum (R164, R165),
and as SEND makes it (R168). -/

namespace Sys2Proof.Machine

open Sys2Proof.Safety

/-! Frames for this board. -/

/-- R168, R181: the encoded packet of a frame for the board `bid`. -/
abbrev boardFrame (bid : Nat) (cmd : BitVec 8) (p : List Byte) : List Byte :=
  cobsEncode (pktBuild (BitVec.ofNat 13 bid) cmd p)

theorem boardId_le {s : State} (ha : configAdmitted s = true) : s.boardId ≤ 2047 :=
  ((configAdmitted_iff s).1 ha).2.1

/-- R165: a frame for this board that fits puts its message on `msg`. -/
theorem run_boardFrame {mv : List Move} (hmv : ByteMoves mv) {s : State} {cmd : BitVec 8}
    {p e rest : List Byte} {ms : List Move} (h : AwaitsFrame s) (hl : p.length ≤ 255)
    (he : e = boardFrame s.boardId cmd p) (hfit : e.length ≤ s.cfg.cursorCap - 1)
    (hq : s.rx = e ++ 0x00#8 :: rest)
    (hs : s.sched = (List.replicate e.length mv).flatten ++ .chanR :: ms) :
    Host.Core.run Sys2Proof.core (e.length * mv.length + 1) s =
      .next { afterFrame s e rest ms with rxPend := some (boardMsg s.boardId cmd p) } := by
  subst he
  obtain ⟨r, hr, hm⟩ := pktParse_board (boardId_le h.admitted) cmd hl
  rw [run_frame hmv h (zero_not_mem_cobsEncode _) (cobsEncode_ne_nil _) hfit hq hs,
    rxFrame_cobsEncode_ok (pktBuild_ne_nil _ _ _) (h.after _ _ _).stable (by exact hr), hm]

/-! Each message accepted at once. -/

theorem rxMoves_succ (n : Nat) : rxMoves (n + 1) = rxMoves n ++ [.chanR, .msgTake] := by
  simp [rxMoves, List.replicate_succ']

/-- The moves of a frame and its delimiter, as `run_frame` takes them. -/
theorem rxMoves_succ_append (n : Nat) (ms : List Move) :
    rxMoves (n + 1) ++ ms = (List.replicate n [Move.chanR, .msgTake]).flatten ++ .chanR :: .msgTake :: ms := by
  rw [rxMoves_succ, List.append_assoc]
  rfl

/-- R165, R166: the message is delivered, and no event is owed. -/
theorem run_boardFrame_taken {s : State} {cmd : BitVec 8} {p e rest : List Byte} {ms : List Move}
    (h : AwaitsFrame s) (hl : p.length ≤ 255) (he : e = boardFrame s.boardId cmd p)
    (hfit : e.length ≤ s.cfg.cursorCap - 1) (hq : s.rx = e ++ 0x00#8 :: rest)
    (hs : s.sched = rxMoves (e.length + 1) ++ ms) :
    Host.Core.run Sys2Proof.core (2 * (e.length + 1)) s = .next
      { afterFrame s e rest ms with
        rxPend := none, log := { s.log with msg := s.log.msg ++ [boardMsg s.boardId cmd p] } } := by
  rw [rxMoves_succ_append] at hs
  have hframe := run_boardFrame .taken h hl he hfit hq hs
  rw [Nat.mul_comm, Nat.add_one_mul]
  refine (run_add hframe 1).trans (run_succ ((itemsTakenOnce _ ms ?_).1 _ rfl rfl) 0)
  exact h.admitted

/-- R144, R162: a frame whose checksum byte alone was changed, fitting the cursor, owes one CHECKSUM_ERROR. -/
theorem run_flippedFrame_taken {s : State} {id : BitVec 13} {cmd : BitVec 8} {q e rest : List Byte} {c : Byte}
    {ms : List Move} (h : AwaitsFrame s) (hl : q.length ≤ 255) (hc : c ≠ 0x00#8)
    (he : e = cobsEncode ((pktBuild id cmd q).dropLast ++ [(pktBuild id cmd q).getLastD 0x00#8 ^^^ c]))
    (hfit : e.length ≤ s.cfg.cursorCap - 1) (hq : s.rx = e ++ 0x00#8 :: rest)
    (hs : s.sched = rxMoves (e.length + 1) ++ ms) :
    Host.Core.run Sys2Proof.core (2 * (e.length + 1)) s =
      .next (emitR .checksumError (afterFrame s e rest ms)) := by
  subst he
  rw [rxMoves_succ_append] at hs
  have hframe := run_frame .taken h (zero_not_mem_cobsEncode _) (cobsEncode_ne_nil _) hfit hq hs
  rw [rxFrame_cobsEncode_error (by simp) (h.after _ _ _).stable (pktParse_flippedChecksum id cmd hl hc _)]
    at hframe
  rw [Nat.mul_comm, Nat.add_one_mul]
  refine (run_add hframe 1).trans (run_succ (step_msgTake_none ?_ ?_ rfl) 0)
  · exact h.admitted
  · exact h.rxPend

/-- Settles O37: the first frame is answered by its event and leaves the cursor empty for the second. -/
theorem corruptedFrameThenValidFrame : Obligations.CorruptedFrameThenValidFrame := by
  intro id cmd cmd' q p c s ms ha hb hp h0 hql hpl hc good bad e f hefit hffit hq hs
  have h : AwaitsFrame s := ⟨ha, hb, hp, h0⟩
  have hq' : s.rx = e ++ 0x00#8 :: (f ++ [0x00#8]) := by simpa using hq
  have hs' : s.sched = rxMoves (e.length + 1) ++ (rxMoves (f.length + 1) ++ ms) := by
    rw [hs, rxMoves, List.replicate_add, List.flatten_append, List.append_assoc]
    rfl
  have hbad := run_flippedFrame_taken h hql hc rfl hefit hq' hs'
  have hempty : AwaitsFrame (emitR .checksumError
      (afterFrame s e (f ++ [0x00#8]) (rxMoves (f.length + 1) ++ ms))) := ⟨ha, hb, hp, rfl⟩
  have hgood := run_boardFrame_taken (cmd := cmd') hempty hpl rfl hffit rfl rfl
  rw [Nat.mul_add]
  exact ⟨_, (run_add hbad _).trans hgood, rfl, rfl, rfl, rfl⟩

/-! After any bytes (R165). -/

/-- `t` is in the configuration of `s`, with no message on `msg` and CURSOR_IDX in range; `rest` waits on `rx`
and the moves `ms` are left. -/
structure Listens (s : State) (rest : List Byte) (ms : List Move) (t : State) : Prop where
  cfg : t.cfg = s.cfg
  boardId : t.boardId = s.boardId
  boardIdAlso : t.boardIdAlso = s.boardIdAlso
  rxPend : t.rxPend = none
  cursorIdx : t.cursorIdx ≤ s.cfg.cursorCap - 1
  rx : t.rx = rest
  sched : t.sched = ms

theorem Listens.admitted {s t : State} {rest : List Byte} {ms : List Move} (h : Listens s rest ms t)
    (ha : configAdmitted s = true) : configAdmitted t = true := by
  rw [configAdmitted_iff] at ha ⊢
  rwa [h.cfg, h.boardId, h.boardIdAlso]

/-- R163: a byte taken answers a next state with CURSOR_IDX in range, and 0 after a delimiter. -/
theorem exec_byte_cursorIdx {s : State} (hp : s.rxPend = none) (hi : s.cursorIdx ≤ s.cfg.cursorCap - 1)
    (b : Byte) : ∃ t, exec (decodeStreamByte b) s = .next t ∧ t.cursorIdx ≤ s.cfg.cursorCap - 1 ∧
      (b = 0x00#8 → t.cursorIdx = 0) := by
  obtain ⟨hdata, hdelim⟩ := oneOutcomePerByte s hp (by omega)
  by_cases hb : b = 0x00#8
  · obtain ⟨t, ht, h0, -⟩ := hdelim
    subst hb
    exact ⟨t, ht, by omega, fun _ => h0⟩
  · obtain ⟨t, ht, -⟩ := hdata b
    rw [decodeStreamByte_data hb]
    refine ⟨t, ht, ?_, fun h => absurd h hb⟩
    cases execRxData_rxDataCase ht with
    | busy _ ht => rwa [ht]
    | store _ hlt ht =>
      rw [ht]
      exact hlt
    | overflow ht =>
      rw [ht]
      exact Nat.zero_le _

/-- R47, R160, R161: a byte step leaves the configuration, the bytes that wait and the moves. -/
theorem exec_byte_frame {s t : State} {b : Byte} (ht : exec (decodeStreamByte b) s = .next t) :
    t = { s with
      cursorBuf := t.cursorBuf, cursorIdx := t.cursorIdx, rxPend := t.rxPend, freeR := t.freeR,
      log := { s.log with rEvt := t.log.rEvt } } := by
  by_cases hb : b = 0x00#8
  · subst hb
    rw [(execRxDelim_frame ht).1]
  · rw [decodeStreamByte_data hb] at ht
    rw [execRxData_frame ht]

theorem takeMsg_eq (s : State) : takeMsg s = { s with rxPend := none, log := (takeMsg s).log } := by
  cases hm : s.rxPend with
  | none => rw [takeMsg_none hm, ← hm]
  | some m => rw [takeMsg_some hm]

/-- R163, R166: after a byte whose message is accepted at once channel R listens again. -/
theorem run_byte_taken {s t : State} {b : Byte} {rest : List Byte} {ms : List Move}
    (ha : configAdmitted s = true) (h : Listens s (b :: rest) (.chanR :: .msgTake :: ms) t) :
    ∃ u, Host.Core.run Sys2Proof.core 2 t = .next u ∧ Listens s rest ms u ∧
      (b = 0x00#8 → u.cursorIdx = 0) := by
  obtain ⟨u, hu, hidx, hdelim⟩ := exec_byte_cursorIdx
    (s := { t with sched := .msgTake :: ms, rx := rest }) h.rxPend (h.cfg ▸ h.cursorIdx) b
  have hframe := exec_byte_frame hu
  have hau : configAdmitted u = true := by
    rw [hframe]
    exact h.admitted ha
  have hsched : u.sched = .msgTake :: ms := (congrArg State.sched hframe :)
  have hstep := (step_byte (h.admitted ha) h.rxPend h.rx h.sched).trans hu
  refine ⟨_, (run_succ hstep 1).trans (run_succ (step_msgTake hau hsched) 0), ?_, ?_⟩
  · rw [takeMsg_eq]
    exact ⟨(congrArg State.cfg hframe).trans h.cfg, (congrArg State.boardId hframe).trans h.boardId,
      (congrArg State.boardIdAlso hframe).trans h.boardIdAlso, rfl, h.cfg ▸ hidx,
      (congrArg State.rx hframe :), rfl⟩
  · rw [takeMsg_eq]
    exact hdelim

theorem run_bytes_taken {s : State} {rest : List Byte} {ms : List Move} (ha : configAdmitted s = true)
    (g : List Byte) : ∀ {t : State}, Listens s (g ++ rest) (rxMoves g.length ++ ms) t →
    ∃ u, Host.Core.run Sys2Proof.core (2 * g.length) t = .next u ∧ Listens s rest ms u := by
  induction g with
  | nil => exact fun {t} h => ⟨t, rfl, h⟩
  | cons b g ih =>
    intro t h
    obtain ⟨u, hu, hl, -⟩ := run_byte_taken ha h
    obtain ⟨v, hv, hlv⟩ := ih hl
    refine ⟨v, ?_, hlv⟩
    rw [List.length_cons, Nat.mul_add_one, Nat.add_comm, run_add hu, hv]

/-- R165: a delimiter empties the cursor, whatever bytes came before. -/
theorem run_toDelim {s : State} {g rest : List Byte} {ms : List Move} (ha : configAdmitted s = true)
    (h : Listens s (g ++ 0x00#8 :: rest) (rxMoves (g.length + 1) ++ ms) s) :
    ∃ t, Host.Core.run Sys2Proof.core (2 * (g.length + 1)) s = .next t ∧ Listens s rest ms t ∧
      t.cursorIdx = 0 := by
  rw [rxMoves_succ, List.append_assoc] at h
  obtain ⟨u, hu, hl⟩ := run_bytes_taken ha g h
  obtain ⟨t, ht, hlt, h0⟩ := run_byte_taken ha hl
  exact ⟨t, (run_add hu 2).trans ht, hlt, h0 rfl⟩

/-- Settles O36: the first delimiter leaves an empty cursor, from which the frame is delivered. -/
theorem resynchronisation : Obligations.Resynchronisation := by
  intro g cmd p s rest ms ha hb hp hi hpl e hfit hq hs
  obtain ⟨t, ht, hl, h0⟩ := run_toDelim (g := g) (rest := e ++ 0x00#8 :: rest)
    (ms := rxMoves (e.length + 1) ++ ms) ha ⟨rfl, rfl, rfl, hp, hi, by simpa using hq, by simpa using hs⟩
  have hempty : AwaitsFrame t := ⟨hl.admitted ha, hl.boardIdAlso.trans hb, hl.rxPend, h0⟩
  have hmsg := run_boardFrame_taken hempty hpl (by rw [hl.boardId]) (hl.cfg ▸ hfit) hl.rx hl.sched
  rw [hl.boardId] at hmsg
  exact ⟨t, _, ht, hmsg, h0, rfl, rfl, rfl⟩

/-! SEND's frames (R168). -/

/-- R182: in an admitted configuration a frame with its delimiter is within MAX_FRAME. -/
theorem cobsEncode_pktBuild_length_lt {s : State} (ha : configAdmitted s = true) (id : BitVec 13)
    (cmd : BitVec 8) {p : List Byte} (hp : p.length ≤ s.cfg.maxPayload) :
    (cobsEncode (pktBuild id cmd p)).length < s.cfg.maxFrame := by
  obtain ⟨-, hframe, -⟩ := (paramsAdmitted_iff s.cfg).1 ((configAdmitted_iff s).1 ha).1
  have hlen := cobsEncode_length_le_worst (pktBuild id cmd p)
  rw [pktBuild_length] at hlen
  omega

/-- Settles O45: the frame fits the cursor, so it is delivered as any frame for this board is. -/
theorem sentFrameIsReceived : Obligations.SentFrameIsReceived := by
  intro cmd p s rest ms ha hb hp h0 hcap hpl t hq hs
  obtain ⟨hmax, -⟩ := (paramsAdmitted_iff s.cfg).1 ((configAdmitted_iff s).1 ha).1
  have hlen : (boardFrame s.boardId cmd p).length < s.cfg.maxFrame :=
    cobsEncode_pktBuild_length_lt ha _ cmd hpl
  have hfit : (boardFrame s.boardId cmd p).length ≤ s.cfg.cursorCap - 1 := by omega
  have ht : t = boardFrame s.boardId cmd p ++ [0x00#8] := rfl
  rw [ht, List.append_assoc] at hq
  rw [ht, List.length_append, List.length_singleton] at hs ⊢
  rw [List.replicate_succ', List.append_assoc, ← List.flatten_replicate_singleton] at hs
  have hrun := run_boardFrame .alone ⟨ha, hb, hp, h0⟩ (hpl.trans hmax) rfl hfit hq hs
  rw [List.length_singleton, Nat.mul_one] at hrun
  exact ⟨_, hrun, rfl, rfl, rfl, rfl⟩

end Sys2Proof.Machine
end

section
/-! SEND and its wait (R180 to R185): its frame and the bound on it, its answers, the steps of the wait and
how the wait ends. -/

namespace Sys2Proof.Machine

/-! The frame (R181, R182). -/

/-- Settles O42: the encoding has no zero byte, and the decoder inverts it. -/
theorem sentFrameShape : Obligations.SentFrameShape := fun id cmd p =>
  ⟨_, rfl, rfl, zero_not_mem_cobsEncode (pktBuild id cmd p), cobsDecode_cobsEncode (pktBuild id cmd p)⟩

/-- R105, R182: the packet adds four bytes, its encoding one and one more for each full run, the delimiter
one. -/
theorem txFrame_length_le (id : BitVec 13) (cmd : BitVec 8) (p : List Byte) :
    (txFrame id cmd p).length ≤ p.length + 6 + (p.length + 3) / 254 := by
  have henc := cobsEncode_length_le_worst (pktBuild id cmd p)
  rw [pktBuild_length] at henc
  rw [txFrame, List.length_append, List.length_singleton]
  omega

/-- Settles O43: the bound grows with the payload, and R7 keeps MAX_FRAME above it at MAX_PAYLOAD. -/
theorem frameCheckNeverFails : Obligations.FrameCheckNeverFails := by
  intro s id cmd p ha hp
  obtain ⟨-, hframe, -⟩ := (paramsAdmitted_iff s.cfg).1 ((configAdmitted_iff s).1 ha).1
  have hlen := txFrame_length_le id cmd p
  omega

/-! SEND's answer (R180, R185). -/

/-- R180: SEND is its rule under the operand contract. -/
theorem exec_send (o : Operands) (s : State) : exec (.send o) s = withPayload o s (sendRule o) := rfl

/-- R180: the payload bound and the frame bound fail alike. -/
theorem sendRule_eq (o : Operands) (s : State) :
    sendRule o s =
      if s.cfg.maxPayload < o.len.toNat ∨ s.cfg.maxFrame < (txFrame o.id o.cmd o.buf).length then txOverflow s
      else offerFrame (txFrame o.id o.cmd o.buf) s :=
  (ite_or _ _ _ _).symm

/-- Settles O39: the operand contract, the two bounds, the offer. -/
theorem sendAnswers : Obligations.SendAnswers := by
  refine ⟨fun s o h => ?_, by decide⟩
  intro t
  rw [exec_send]
  by_cases hc : s.cfg.bufMax < o.buf.length ∨ o.buf.length ≠ o.len.toNat
  · rw [withPayload_operandError h hc, operandError_eq, if_pos hc]
  · obtain ⟨hl, he⟩ := not_or.1 hc
    rw [withPayload_rule h (Nat.not_lt.1 hl) (not_not.1 he), if_neg hc, sendRule_eq]
    rfl

/-! The steps of the wait (R183). -/

theorem step_accept {s : State} {ms : List Move} (ha : configAdmitted s = true) (hp : s.cPhase = .txWait)
    (hs : s.sched = .txAccept :: ms) : step s = .next { s with
      sched := ms, cPhase := .idle, cRsp := some ⟨0#32, 0#32, []⟩,
      log := { s.log with tx := s.log.tx ++ [s.cTxframe] } } :=
  (step_answer ha hs rfl).trans (congrArg _ (txAccept_wait (s := { s with sched := ms }) hp))

/-- The step of the wait in which the queue does not accept. -/
theorem step_hold {s : State} {ms : List Move} (ha : configAdmitted s = true) (hp : s.cPhase = .txWait)
    (hs : s.sched = .chanC :: ms) : step s = .next (txHold { s with sched := ms }) :=
  step_answer ha hs (fetchC_wait (s := { s with sched := ms }) hp)

theorem step_tick {s : State} {ms : List Move} (ha : configAdmitted s = true) (hp : s.cPhase = .txWait)
    (hs : s.sched = .chanC :: ms) (ht : ∀ n ∈ s.cfg.txTimeout, s.cTxtimer < n) :
    step s = .next { s with sched := ms, cTxtimer := s.cTxtimer + 1 } :=
  (step_hold ha hp hs).trans (congrArg _ (if_pos ((timerRuns_iff { s with sched := ms }).2 ht)))

theorem step_timeout {s : State} {ms : List Move} (ha : configAdmitted s = true) (hp : s.cPhase = .txWait)
    (hs : s.sched = .chanC :: ms) {n : Nat} (hn : s.cfg.txTimeout = some n) (ht : n ≤ s.cTxtimer) :
    step s = .next { s with
      sched := ms, cPhase := .idle, cRsp := some ⟨0x00000008#32, 0#32, []⟩,
      log := { s.log with cEvt := s.log.cEvt ++ [.queueSendError] } } := by
  have hstop : ¬ timerRuns { s with sched := ms } = true := fun hr =>
    Nat.not_lt.2 ht ((timerRuns_iff _).1 hr n hn)
  exact (step_hold ha hp hs).trans (congrArg _ (if_neg hstop))

/-- Settles O40: accept, tick and timeout are the moves' own steps. -/
theorem sendWaitSteps : Obligations.SendWaitSteps := fun _ _ _ ha hp hs =>
  ⟨fun hm => step_accept ha hp (hm ▸ hs), fun hm => step_tick ha hp (hm ▸ hs),
    fun _ hm => step_timeout ha hp (hm ▸ hs)⟩

/-! The end of the wait (R183 to R185, R221). -/

/-- R183: as many steps without an accept are as many ticks, while TX_TIMEOUT allows them. -/
theorem run_ticks (k : Nat) : ∀ {s : State} {ms : List Move}, configAdmitted s = true → s.cPhase = .txWait →
    (∀ n ∈ s.cfg.txTimeout, s.cTxtimer + k ≤ n) → s.sched = List.replicate k Move.chanC ++ ms →
    Host.Core.run Sys2Proof.core k s = .next { s with sched := ms, cTxtimer := s.cTxtimer + k } := by
  induction k with
  | zero =>
    rintro s ms - - - rfl
    rfl
  | succ k ih =>
    intro s ms ha hp ht hs
    have htick : ∀ n ∈ s.cfg.txTimeout, s.cTxtimer < n := fun n hn => lt_of_lt_of_le (by omega) (ht n hn)
    have hrest : ∀ n ∈ s.cfg.txTimeout, s.cTxtimer + 1 + k ≤ n := fun n hn =>
      le_of_eq_of_le (by omega) (ht n hn)
    rw [run_succ (step_tick ha hp hs htick), Nat.add_comm k 1, ← Nat.add_assoc]
    exact ih ha hp hrest rfl

/-- Settles O41: the ticks that are left bring C_TXTIMER to TX_TIMEOUT, and the next step is the timeout. -/
theorem sendWaitEnds : Obligations.SendWaitEnds := by
  intro n s ms ha hp hn hle hs
  have hticks : ∀ m ∈ s.cfg.txTimeout, s.cTxtimer + (n - s.cTxtimer) ≤ m := by
    intro m hm
    cases hn.symm.trans hm
    omega
  rw [List.replicate_succ', List.append_assoc] at hs
  have hwait := run_ticks _ ha hp hticks hs
  rw [Nat.add_sub_of_le hle] at hwait
  have hend := step_timeout (s := { s with sched := .chanC :: ms, cTxtimer := n }) ha hp rfl hn le_rfl
  exact ⟨_, (run_add hwait 1).trans (run_succ hend 0), rfl, rfl, rfl, rfl, rfl⟩

/-- Settles O44: SEND's answers and the steps of its wait, one by one. -/
theorem oneStatusPerSend : Obligations.OneStatusPerSend := by
  refine ⟨fun s o hr => ?_, fun s m ms ha hp hn hs hm => ?_⟩
  · obtain ⟨hidle, hnone⟩ := (readyC_iff s).1 hr
    refine ⟨_, sendAnswers.1 s o hr, ?_, fun he hl hpay => ?_⟩
    · split_ifs with hc hb
      · exact .inl ⟨hidle, ⟨_, rfl⟩, rfl, rfl, .inl rfl⟩
      · exact .inl ⟨hidle, ⟨_, rfl⟩, rfl, rfl, .inr ⟨_, rfl⟩⟩
      · exact .inr ⟨rfl, hnone, rfl⟩
    · have hc : ¬ (s.cfg.bufMax < o.buf.length ∨ o.buf.length ≠ o.len.toNat) :=
        not_or.2 ⟨Nat.not_lt.2 hl, not_not.2 he⟩
      rw [if_neg hc, if_pos (.inl (he ▸ hpay))]
      exact ⟨hidle, rfl, rfl⟩
  · rcases hm with rfl | rfl
    · by_cases ht : ∀ n ∈ s.cfg.txTimeout, s.cTxtimer < n
      · exact ⟨_, step_tick ha hp hs ht, .inr ⟨hp, hn, rfl⟩⟩
      · push Not at ht
        obtain ⟨n, hto, hle⟩ := ht
        exact ⟨_, step_timeout ha hp hs hto hle, .inl ⟨rfl, ⟨_, rfl⟩, .inr ⟨_, rfl⟩⟩⟩
    · exact ⟨_, step_accept ha hp hs, .inl ⟨rfl, ⟨_, rfl⟩, .inl rfl⟩⟩

end Sys2Proof.Machine
end

section
/-! Which instructions emit events (R202, R203), and no error stops a channel (R200). -/

namespace Sys2Proof.Machine

open Sys2Proof.Safety

/-! Events. -/

/-- R203: outside SEND, an operation of channel C and a code byte emit nothing. -/
theorem exec_log_of_silent {i : Instr} {s t : State} (hs : ∀ o, i ≠ .send o) (hr : isChanR i = false)
    (ht : exec i s = .next t) : t.log = s.log := by
  cases i with
  | encode o => exact (congrArg State.log (responseAlone_withBuf (responseAlone_respond _ s) ht) :)
  | decode o => exact (congrArg State.log (responseAlone_withBuf (responseAlone_respond _ s) ht) :)
  | chksum o => exact (congrArg State.log (responseAlone_withBuf (responseAlone_respond _ s) ht) :)
  | chkverify o => exact (congrArg State.log (responseAlone_withBuf (responseAlone_chkverifyRule o s) ht) :)
  | build o => exact (congrArg State.log (responseAlone_execBuild ht) :)
  | parse o => exact (congrArg State.log (execParse_frame ht).1 :)
  | send o => exact absurd rfl (hs o)
  | rxDelim => cases hr
  | rxData b => cases hr
  | codeTerm =>
    cases ht
    rfl
  | codeRun c =>
    cases ht
    rfl
  | codeFull =>
    cases ht
    rfl

/-- R202: a step of channel R emits nothing on `c_evt`. -/
theorem exec_chanR_cEvt {i : Instr} {s t : State} (hr : isChanR i = true) (ht : exec i s = .next t) :
    t.log.cEvt = s.log.cEvt := by
  cases i with
  | rxDelim => exact (congrArg (·.log.cEvt) (execRxDelim_frame ht).1 :)
  | rxData b => exact (congrArg (·.log.cEvt) (execRxData_frame ht) :)
  | _ => cases hr

/-- R180, R203: the one event of SEND's request step is TX_OVERFLOW, on `c_evt`. -/
theorem execSend_log {s t : State} {o : Operands} (ht : execSend o s = .next t) :
    t.log = s.log ∨ t.log = { s.log with cEvt := s.log.cEvt ++ [.txOverflow] } := by
  rcases withPayload_answer ht with rfl | rfl | rfl
  · exact .inl rfl
  · exact .inl rfl
  · rcases sendRule_cases o s with h | ⟨-, -, h⟩ <;> rw [h]
    · exact .inr rfl
    · exact .inl rfl

/-- R202: only SEND emits on `c_evt`. -/
theorem exec_cEvt_of_ne_send {i : Instr} {s t : State} (hs : ∀ o, i ≠ .send o) (ht : exec i s = .next t) :
    t.log.cEvt = s.log.cEvt := by
  cases hr : isChanR i with
  | true => exact exec_chanR_cEvt hr ht
  | false => exact congrArg PortLog.cEvt (exec_log_of_silent hs hr ht)

/-- R202: only a step of channel R emits on `r_evt`. -/
theorem exec_rEvt_of_not_chanR {i : Instr} {s t : State} (hr : isChanR i = false) (ht : exec i s = .next t) :
    t.log.rEvt = s.log.rEvt := by
  by_cases hs : ∃ o, i = .send o
  · obtain ⟨o, rfl⟩ := hs
    exact (congrArg (·.log.rEvt) (execSend_frame ht) :)
  · exact congrArg PortLog.rEvt (exec_log_of_silent (not_exists.1 hs) hr ht)

/-- Settles O51: SEND's one event is TX_OVERFLOW, and every other instruction leaves `c_evt` as it is. -/
theorem eventsFromPipelineStepsOnly : Obligations.EventsFromPipelineStepsOnly := by
  intro i s t ht
  refine ⟨fun hs => exec_cEvt_of_ne_send hs ht, fun hr => exec_rEvt_of_not_chanR hr ht, ?_,
    (eventsOnly_exec ht).rEvt⟩
  by_cases hs : ∃ o, i = .send o
  · obtain ⟨o, rfl⟩ := hs
    exact (execSend_log ht).imp (congrArg PortLog.cEvt) (congrArg PortLog.cEvt)
  · exact .inl (exec_cEvt_of_ne_send (not_exists.1 hs) ht)

/-! No step stops. -/

/-- R40, R161: with CURSOR_IDX within CURSOR_CAP every instruction answers a next state. -/
theorem exec_next {s : State} (hc : s.cursorIdx ≤ s.cfg.cursorCap) (i : Instr) : ∃ t, exec i s = .next t :=
  (exec_cases i s).resolve_right fun ⟨_, hgt, _⟩ => Nat.not_lt.2 hc hgt

theorem fetchRequest_next {s : State} (hc : s.cursorIdx ≤ s.cfg.cursorCap) {r : Request}
    (hr : requestComplete r = true) : ∃ t, (fetchRequest r s).outcome = .next t := by
  rcases fetchRequest_cases r s with ⟨i, -, h⟩ | ⟨-, h⟩ | ⟨hn, -⟩
  · exact h ▸ exec_next hc i
  · exact h ▸ ⟨_, rfl⟩
  · cases hr.symm.trans hn

theorem fetchC_next {s : State} (hc : s.cursorIdx ≤ s.cfg.cursorCap) (hq : RequestsComplete s) :
    ∃ t, (fetchC s).outcome = .next t := by
  cases hp : s.cPhase with
  | txWait => exact ⟨_, congrArg Fetched.outcome (fetchC_wait hp)⟩
  | idle =>
    cases hr : readyC s with
    | false => exact ⟨s, congrArg Fetched.outcome (fetchC_pending hp hr)⟩
    | true =>
      cases hl : s.cReq with
      | nil => exact ⟨s, congrArg Fetched.outcome (fetchC_empty hr hl)⟩
      | cons r rest =>
        rw [fetchC_request hr hl]
        exact fetchRequest_next (s := { s with cReq := rest }) hc (hq r (by simp [hl]))

theorem fetchR_next {s : State} (hc : s.cursorIdx ≤ s.cfg.cursorCap) : ∃ t, (fetchR s).outcome = .next t := by
  cases hr : readyR s with
  | false => exact ⟨s, congrArg Fetched.outcome (fetchR_busy hr)⟩
  | true =>
    cases hl : s.rx with
    | nil => exact ⟨s, congrArg Fetched.outcome (fetchR_empty hr hl)⟩
    | cons b rest =>
      rw [fetchR_byte hr hl]
      exact exec_next (s := { s with rx := rest }) hc _

theorem fetchCode_next {s : State} (hc : s.cursorIdx ≤ s.cfg.cursorCap) :
    ∃ t, (fetchCode s).outcome = .next t := by
  cases ht : s.codec.term with
  | true => exact ⟨s, congrArg Fetched.outcome (fetchCode_stopped (.inl ht))⟩
  | false =>
    cases hl : s.codec.rest with
    | nil => exact ⟨s, congrArg Fetched.outcome (fetchCode_stopped (.inr hl))⟩
    | cons c rest =>
      rw [fetchCode_byte ht hl]
      exact exec_next (s := { s with codec := { s.codec with rest := rest } }) hc _

/-- R200: with CURSOR_IDX in range and only requests on `c_req`, every move comes to a next state. -/
theorem fetch_next {s : State} (hc : s.cursorIdx ≤ s.cfg.cursorCap) (hq : RequestsComplete s) (m : Move) :
    ∃ t, (fetch m s).outcome = .next t := by
  cases m with
  | chanC => exact fetchC_next hc hq
  | chanR => exact fetchR_next hc
  | codeByte => exact fetchCode_next hc
  | txAccept => exact ⟨_, rfl⟩
  | rspTake => exact ⟨_, rfl⟩
  | msgTake => exact ⟨_, rfl⟩
  | cfgBoardId v also => exact ⟨_, rfl⟩
  | rst midC midR => exact ⟨_, rfl⟩

/-- Settles O60: the invariant keeps CURSOR_IDX below CURSOR_CAP, so the one fault cannot be raised, and an
item that is no request is the one refusal. -/
theorem stepNeverStops : Obligations.StepNeverStops := by
  intro s ha hinv hq
  obtain ⟨-, -, hidx, -⟩ := hinv.cursor
  have hc : s.cursorIdx ≤ s.cfg.cursorCap := hidx.trans (Nat.sub_le _ 1)
  cases hs : s.sched with
  | nil => exact ⟨s, step_idle ha hs⟩
  | cons m ms =>
    rw [step_eq_outcome ha hs]
    exact fetch_next (s := { s with sched := ms }) hc hq m

end Sys2Proof.Machine
end

section
/-! Reset abandons what is in progress (R240, R242). -/

namespace Sys2Proof.Machine

/-- R240: a reset move always answers a next state, the machine reset after what it cuts off is dropped. -/
theorem step_rst {s : State} {midC midR : Bool} {ms : List Move} (ha : configAdmitted s = true)
    (hs : s.sched = .rst midC midR :: ms) :
    step s = .next (resetMachine (abandon midC midR { s with sched := ms })) :=
  step_answer ha hs rfl

/-- Settles O56: reset overwrites every element R30 names with its reset value and keeps the rest of what
`abandon` leaves, which drops only the input whose operation is cut off. -/
theorem resetAbandonsOperations : Obligations.ResetAbandonsOperations := by
  intro s midC midR ms ha hs
  obtain ⟨hrx, hidx, hpend, hphase, hrsp⟩ := resetValues
  refine ⟨_, step_rst ha hs, hrx, hidx, hpend, hphase, hrsp, rfl, rfl, rfl, rfl, rfl, ?_, ?_⟩
  · exact if_congr (Bool.and_eq_true_iff (x := midC) (y := readyC s)) rfl rfl
  · exact if_congr (Bool.and_eq_true_iff (x := midR) (y := readyR s)) rfl rfl

end Sys2Proof.Machine
end
